-- ==== Sys2Proof/Word.lean ====
section
/-! DEFINITION. The word types of the block: 32-bit command and response words, bytes, peer addresses and read counts
(00_scope.md R10, 20_memory.md R61 and R62). Every quantity is unsigned. -/

namespace Sys2Proof

/-- A command word, a response word or BLK_STATUS: 32 parallel bits (R62, R90, R97). -/
abbrev Word := BitVec 32

/-- One byte: a peripheral register, a transferred byte (R61). -/
abbrev Byte := BitVec 8

/-- A 7-bit peer address (R60 b). -/
abbrev PeerAddr := BitVec 7

/-- `readCount` and PRC: CNT_W = 16 bits (R7, R22, R24). -/
abbrev Count := BitVec 16

end Sys2Proof
end

