-- ==== Sys2Proof/Config.lean ====
section
/-! DEFINITION. The implementation parameters of 00_scope.md R7 as plain data, and the free values (constants with no
body): what the peripheral answers to a register read, and the two parameters the spec leaves OPEN.
The default values stand in Machine/Layout.lean. -/

namespace Sys2Proof

/-- PERIPH_LAYOUT (R7, R40-R48): offsets, status bits, the address byte's shape and the constant bytes the block
writes.  The default layout is `Machine.Layout.standard`. -/
structure Layout where
  /-- Offsets from PERIPH_BASE (R40). -/
  offBaud : Nat
  offCtrla : Nat
  offCtrlb : Nat
  offStatus : Nat
  offAddr : Nat
  offData : Nat
  /-- Positions of the five one-bit flags in a status snapshot (R44). -/
  bitRif : Fin 8
  bitWif : Fin 8
  bitRxack : Fin 8
  bitArblost : Fin 8
  bitBuserr : Fin 8
  /-- The bus-state field of a snapshot, and its value IDLE (R44, D27). -/
  busMask : Byte
  busIdle : Byte
  /-- The address byte: shift of the 7-bit address, and the byte ORed in for each direction (R46, D6). -/
  addrShift : Nat
  dirRead : Byte
  dirWrite : Byte
  /-- The constant bytes of R48. -/
  ctrlaEnableMaster : Byte
  statusForceIdle : Byte
  cmdPrime : Byte
  cmdAckContinue : Byte
  cmdNack : Byte
  cmdStop : Byte
  deriving DecidableEq, Repr

/-- WRITE_VARIANT (R7): `b` primes, loads, waits, then checks; `a` is the older design. -/
inductive WriteVariant where
  | a
  | b
  deriving DecidableEq, Repr

/-- The configuration of one block (R7).  CNT_W is the width of `Count`.  CORE_CLOCK_HZ, BUS_FREQ_HZ and RISE_TIME_NS
enter only through `Machine.configOfClock`, which turns them into BAUD_VALUE or refuses them (R122). -/
structure Config where
  /-- BUS_IDLE_WAIT: the newer design (true) waits for bus idle on START's failure paths and in STOP. -/
  busIdleWait : Bool
  /-- WRITE_VARIANT. -/
  writeVariant : WriteVariant
  /-- POLL_LIMIT: `none` is INF. -/
  pollLimit : Option Nat
  /-- BAUD_VALUE. -/
  baudValue : Byte
  /-- PERIPH_LAYOUT. -/
  layout : Layout
  /-- PERIPH_BASE. -/
  periphBase : Nat
  deriving DecidableEq, Repr

/-- FREE VALUE.  What the peripheral answers to the n-th register read when the state lists no answer for it: the
oracle of R9 and R75, under no law. -/
opaque Config.freeAnswer : Nat → BitVec 8

/-- FREE VALUE.  BAUD_VALUE of the configuration after reset: OPEN in R7. -/
opaque Config.openBaudValue : BitVec 8

/-- FREE VALUE.  PERIPH_BASE of the configuration after reset: OPEN in R7 (D34). -/
opaque Config.openPeriphBase : Nat

end Sys2Proof
end

