-- ==== Sys2Proof/Syntax.lean ====
section
/-! DEFINITION. The seven commands (00_scope.md R3, spec/opcode_table.json), one constructor per row, and the commands
as an assembly line spells them, with operands of any size (30_encoding.md R100). -/

namespace Sys2Proof

/-- A command of the block.  An operand has the width of its field, so a value the command word cannot carry cannot be
written here (R95). -/
inductive Instr where
  /-- INIT (R120). -/
  | init
  /-- START addr, count (R130); `count = 0` selects the write direction (R94). -/
  | start (addr : PeerAddr) (count : Count)
  /-- RESTART addr, count (R140). -/
  | restart (addr : PeerAddr) (count : Count)
  /-- WRITE byte (R150). -/
  | write (byte : Byte)
  /-- READ (R160). -/
  | read
  /-- READLAST (R170). -/
  | readlast
  /-- STOP (R180). -/
  | stop
  deriving DecidableEq, Repr

/-- A command as an assembly line spells it: its operands are numbers that may be out of range (R100). -/
inductive Source where
  | init
  | start (addr count : Nat)
  | restart (addr count : Nat)
  | write (byte : Nat)
  | read
  | readlast
  | stop
  deriving DecidableEq, Repr

end Sys2Proof
end

