-- ==== Sys2Proof/WellFormed.lean ====
section
/-! DEFINITION. What is well formed: a command word (30_encoding.md R91-R93, R96), an assembly line's command (R100) and a
configuration (00_scope.md R7).  An `Instr` is well formed by its types (R95). -/

namespace Sys2Proof

/-- One row of the match and mask table of R93. -/
structure Row where
  mask : Word
  value : Word
  deriving DecidableEq, Repr

/-- The seven rows of R93, in the order of the opcodes. -/
def rows : List Row :=
  [⟨0xFFFFFFFF#32, 0x00000001#32⟩, ⟨0x0000F80F#32, 0x00000002#32⟩, ⟨0x0000F80F#32, 0x00000003#32⟩,
   ⟨0xFFFFF00F#32, 0x00000004#32⟩, ⟨0xFFFFFFFF#32, 0x00000005#32⟩, ⟨0xFFFFFFFF#32, 0x00000006#32⟩,
   ⟨0xFFFFFFFF#32, 0x00000007#32⟩]

/-- The row a command belongs to (R93). -/
def Instr.row : Instr → Row
  | .init => ⟨0xFFFFFFFF#32, 0x00000001#32⟩
  | .start _ _ => ⟨0x0000F80F#32, 0x00000002#32⟩
  | .restart _ _ => ⟨0x0000F80F#32, 0x00000003#32⟩
  | .write _ => ⟨0xFFFFF00F#32, 0x00000004#32⟩
  | .read => ⟨0xFFFFFFFF#32, 0x00000005#32⟩
  | .readlast => ⟨0xFFFFFFFF#32, 0x00000006#32⟩
  | .stop => ⟨0xFFFFFFFF#32, 0x00000007#32⟩

/-- A word matches a row when its masked bits are the row's (R93). -/
def Row.hits (r : Row) (w : Word) : Bool := w &&& r.mask == r.value

/-- A legal command word: it matches exactly one row (R92, R93). -/
def legalWord (w : Word) : Bool := (rows.filter (·.hits w)).length == 1

/-- An assembly line's operands are in the ranges of R100; out of range is an assembly error. -/
def Source.wellFormed : Source → Bool
  | .start a n => a < 128 && n < 65536
  | .restart a n => a < 128 && n < 65536
  | .write b => b < 256
  | .init | .read | .readlast | .stop => true

/-- Each peripheral register has an offset of its own (R40). -/
def Layout.wellFormed (l : Layout) : Bool :=
  decide [l.offBaud, l.offCtrla, l.offCtrlb, l.offStatus, l.offAddr, l.offData].Nodup

/-- POLL_LIMIT is a positive integer or INF, and the layout is one of R40's shape (R7). -/
def Config.wellFormed (c : Config) : Bool := c.pollLimit != some 0 && c.layout.wellFormed

end Sys2Proof
end

