-- ==== Sys2Proof/Decode.lean ====
section
/-! DEFINITION. The decoder, total on every 32-bit word and rejecting by name, and after it the encoder, both from the
format tables of 30_encoding.md R90-R94. -/

namespace Sys2Proof

/-- Why a word is no command (R96).  Both reasons are handled alike, as an illegal command (R199). -/
inductive Reject where
  /-- OP is 0x0 or 0x8..0xF. -/
  | badOpcode
  /-- OP is legal and a must-be-zero bit of its format is 1. -/
  | mustBeZero
  deriving DecidableEq, Repr

/-- OP = cmd[3:0] (R90). -/
def opField (w : Word) : BitVec 4 := w.extractLsb' 0 4

/-- ADDR7 = cmd[10:4] of Format A (R91, R94). -/
def addrField (w : Word) : PeerAddr := w.extractLsb' 4 7

/-- RCNT = cmd[31:16] of Format A (R91, R94). -/
def countField (w : Word) : Count := w.extractLsb' 16 16

/-- DATA8 = cmd[11:4] of Format D (R91, R94). -/
def dataField (w : Word) : Byte := w.extractLsb' 4 8

/-- The must-be-zero bits 31:4 of Format N (R91). -/
def zeroN (w : Word) : Bool := w.extractLsb' 4 28 == 0#28

/-- The must-be-zero bits 15:11 of Format A (R91). -/
def zeroA (w : Word) : Bool := w.extractLsb' 11 5 == 0#5

/-- The must-be-zero bits 31:12 of Format D (R91). -/
def zeroD (w : Word) : Bool := w.extractLsb' 12 20 == 0#20

/-- Accept a command only if its format's must-be-zero bits are zero (R92). -/
def guarded (zero : Bool) (i : Instr) : Except Reject Instr := if zero then .ok i else .error .mustBeZero

/-- The command a word stands for (R92): the opcode selects the row, then its format's zero bits are checked. -/
def decode (w : Word) : Except Reject Instr :=
  if opField w = 0x1#4 then guarded (zeroN w) .init
  else if opField w = 0x2#4 then guarded (zeroA w) (.start (addrField w) (countField w))
  else if opField w = 0x3#4 then guarded (zeroA w) (.restart (addrField w) (countField w))
  else if opField w = 0x4#4 then guarded (zeroD w) (.write (dataField w))
  else if opField w = 0x5#4 then guarded (zeroN w) .read
  else if opField w = 0x6#4 then guarded (zeroN w) .readlast
  else if opField w = 0x7#4 then guarded (zeroN w) .stop
  else .error .badOpcode

/-- The word of a command (R91): the fields side by side, bit 31 at the left. -/
def encode : Instr → Word
  | .init => 0#28 ++ 0x1#4
  | .start a n => n ++ 0#5 ++ a ++ 0x2#4
  | .restart a n => n ++ 0#5 ++ a ++ 0x3#4
  | .write b => 0#20 ++ b ++ 0x4#4
  | .read => 0#28 ++ 0x5#4
  | .readlast => 0#28 ++ 0x6#4
  | .stop => 0#28 ++ 0x7#4

/-- The command of an opcode-table word: one 32-bit word, bits above `nbits` zero (R90: every command has one
length). -/
def decodeTableWord (nbits w : Nat) : Option Instr :=
  if nbits ≤ 32 then (decode (BitVec.ofNat 32 (w % 2 ^ nbits))).toOption else none

end Sys2Proof
end

