-- ==== Sys2Proof/Machine/Layout.lean ====
section
/-! DEFINITION. The default register layout of the peripheral (10_state.md R40-R48), field by field, the default configuration
(00_scope.md R7) and the suggested clock divider (40_initialize.md R122).
PRESUMED (log 3): the spec itself marks this layout as general knowledge. -/

namespace Sys2Proof.Machine

/-- CTRLA's fields (R42). -/
structure CtrlaFields where
  rien : Bool
  wien : Bool
  qcen : Bool
  timeout : BitVec 2
  smen : Bool
  enable : Bool
  deriving DecidableEq, Repr

/-- CTRLA as a byte: bit 5 is reserved and written 0 (R42). -/
def CtrlaFields.byte (f : CtrlaFields) : Byte :=
  BitVec.ofBool f.rien ++ BitVec.ofBool f.wien ++ 0#1 ++ BitVec.ofBool f.qcen ++ f.timeout ++
    BitVec.ofBool f.smen ++ BitVec.ofBool f.enable

/-- MCMD, the command field of CTRLB (R43). -/
inductive Mcmd where
  | noAction
  | repeatedStart
  | proceed
  | stop
  deriving DecidableEq, Repr

/-- The codes of MCMD (R43). -/
def Mcmd.code : Mcmd → BitVec 2
  | .noAction => 0#2
  | .repeatedStart => 1#2
  | .proceed => 2#2
  | .stop => 3#2

/-- CTRLB's fields (R43); `nack` is ACKACT. -/
structure CtrlbFields where
  flush : Bool
  nack : Bool
  mcmd : Mcmd
  deriving DecidableEq, Repr

/-- CTRLB as a byte: bits 7:4 are reserved and written 0 (R43). -/
def CtrlbFields.byte (f : CtrlbFields) : Byte :=
  0#4 ++ BitVec.ofBool f.flush ++ BitVec.ofBool f.nack ++ f.mcmd.code

/-- BUSSTATE of STATUS (R44). -/
inductive BusState where
  | unknown
  | idle
  | owner
  | busy
  deriving DecidableEq, Repr

/-- The codes of BUSSTATE (R44). -/
def BusState.code : BusState → BitVec 2
  | .unknown => 0#2
  | .idle => 1#2
  | .owner => 2#2
  | .busy => 3#2

/-- STATUS's fields (R44). -/
structure StatusFields where
  rif : Bool
  wif : Bool
  clkhold : Bool
  rxack : Bool
  arblost : Bool
  buserr : Bool
  busState : BusState
  deriving DecidableEq, Repr

/-- STATUS as a byte (R44). -/
def StatusFields.byte (f : StatusFields) : Byte :=
  BitVec.ofBool f.rif ++ BitVec.ofBool f.wif ++ BitVec.ofBool f.clkhold ++ BitVec.ofBool f.rxack ++
    BitVec.ofBool f.arblost ++ BitVec.ofBool f.buserr ++ f.busState.code

/-- CTRLA_ENABLE_MASTER: the peripheral enabled as master, no interrupt enabled, all else 0 (R42, R48). -/
def ctrlaEnableMaster : Byte := (CtrlaFields.mk false false false 0#2 false true).byte

/-- STATUS_FORCE_IDLE: BUSSTATE = IDLE and 0 in every flag bit (R45, R48). -/
def statusForceIdle : Byte := (StatusFields.mk false false false false false false .idle).byte

/-- CMD_PRIME: ACKACT = ACK, MCMD = proceed (R48). -/
def cmdPrime : Byte := (CtrlbFields.mk false false .proceed).byte

/-- CMD_ACK_CONTINUE: ACKACT = ACK, MCMD = proceed (R48). -/
def cmdAckContinue : Byte := (CtrlbFields.mk false false .proceed).byte

/-- CMD_NACK: ACKACT = NACK, no bus action (R48). -/
def cmdNack : Byte := (CtrlbFields.mk false true .noAction).byte

/-- CMD_STOP: ACKACT = NACK, MCMD = STOP (R48). -/
def cmdStop : Byte := (CtrlbFields.mk false true .stop).byte

/-- The default PERIPH_LAYOUT: the offsets of R40, the bits of R44, the address byte of R46 and the constants of
R48. -/
def Layout.standard : Layout where
  offBaud := 0x06
  offCtrla := 0x03
  offCtrlb := 0x04
  offStatus := 0x05
  offAddr := 0x07
  offData := 0x08
  bitRif := 7
  bitWif := 6
  bitRxack := 4
  bitArblost := 3
  bitBuserr := 2
  busMask := 0x03#8
  busIdle := 0x01#8
  addrShift := 1
  dirRead := 0x01#8
  dirWrite := 0x00#8
  ctrlaEnableMaster := ctrlaEnableMaster
  statusForceIdle := statusForceIdle
  cmdPrime := cmdPrime
  cmdAckContinue := cmdAckContinue
  cmdNack := cmdNack
  cmdStop := cmdStop

/-- A configuration at the defaults of R7, for a given BAUD_VALUE and PERIPH_BASE, which R7 leaves OPEN. -/
def configWith (baud : Byte) (base : Nat) : Config where
  busIdleWait := true
  writeVariant := .b
  pollLimit := none
  baudValue := baud
  layout := Layout.standard
  periphBase := base

/-- The configuration after reset: the defaults, and free values for the two OPEN parameters (log 2). -/
def defaultConfig : Config := configWith Config.openBaudValue Config.openPeriphBase

/-- The suggested BAUD_VALUE of R122 in integer arithmetic, each division truncating toward zero, before the range
check. -/
def dividerFormula (coreHz busHz riseNs : Nat) : Int :=
  (Int.tdiv coreHz busHz - Int.tdiv (coreHz * riseNs) 1000000000 - 10).tdiv 2

/-- BAUD_VALUE from the clock figures: refused below 0, above 255, and at a core clock or bus frequency that is no
positive integer (R7, R122, D14).  A rise time of 0 is admitted, as in the worked values of R123. -/
def suggestedBaud (coreHz busHz riseNs : Nat) : Option Byte :=
  if coreHz = 0 ∨ busHz = 0 then none
  else
    let q := dividerFormula coreHz busHz riseNs
    if 0 ≤ q ∧ q ≤ 255 then some (BitVec.ofInt 8 q) else none

/-- A configuration built from CORE_CLOCK_HZ, BUS_FREQ_HZ and RISE_TIME_NS, or refused (R122, U5, U6). -/
def configOfClock (coreHz busHz riseNs base : Nat) : Option Config :=
  (suggestedBaud coreHz busHz riseNs).map (configWith · base)

end Sys2Proof.Machine
end

