-- ==== Sys2Proof/Machine/State.lean ====
section
/-! DEFINITION. The state: the block's own items (10_state.md R20), what the block has done to the peripheral, and the two
other agents' pending inputs (00_scope.md R9), all plain data; and the state after reset (70_reset_and_hazards.md R220). -/

namespace Sys2Proof.Machine

/-- PHASE (R25).  The reserved encoding 7 is never written, so it has no name here. -/
inductive Phase where
  | uninit
  | idle
  | addressing
  | writing
  | reading
  | readEnded
  | unsettled
  deriving DecidableEq, Repr

/-- CAUSE of a response (R98).  The reserved codes 7..15 are never produced. -/
inductive Cause where
  | none
  | arbitrationLost
  | busError
  | addressNack
  | byteNack
  | illegalCommand
  | timeout
  deriving DecidableEq, Repr

/-- FAULT_CAUSE (R200).  The reserved codes 3..15 are never produced. -/
inductive FaultCause where
  | none
  | illegalCommand
  | phaseMisuse
  deriving DecidableEq, Repr

/-- The six peripheral registers (R40). -/
inductive Reg where
  | baud
  | ctrla
  | ctrlb
  | status
  | addr
  | data
  deriving DecidableEq, Repr

/-- A bus line (R12). -/
inductive Pin where
  | sda
  | scl
  deriving DecidableEq, Repr

/-- The mode a pin request asks for; only INPUT_PULLUP occurs (R12). -/
inductive PinMode where
  | inputPullup
  deriving DecidableEq, Repr

/-- What the block does to the outside: a pin request, a register write, or a register read with its answer
(R8, R68). -/
inductive Event where
  | pin (line : Pin) (mode : PinMode)
  | write (reg : Reg) (v : Byte)
  | read (reg : Reg) (v : Byte)
  deriving DecidableEq, Repr

/-- The three arguments of `respond(ok, cause, data)` (R12, R97). -/
structure Reply where
  ok : Bool
  cause : Cause
  data : Byte
  deriving DecidableEq, Repr

/-- Which poll loop a command is in (the list of R196).  A wait for bus idle carries the reply that follows it. -/
inductive Wait where
  /-- START, RESTART: WIF or RIF. -/
  | addrDone
  /-- WRITE: WIF. -/
  | wif
  /-- READ, READLAST: RIF. -/
  | rif
  /-- START's failure paths and STOP, with BUS_IDLE_WAIT: bus idle. -/
  | busIdle (r : Reply)
  deriving DecidableEq, Repr

/-- A line of a command's pseudocode that is one step of its own (R8, R120-R180). -/
inductive Line where
  /-- INIT: `PinConfig(SDA, INPUT_PULLUP)`. -/
  | pinSda
  /-- INIT: `PinConfig(SCL, INPUT_PULLUP)`. -/
  | pinScl
  /-- INIT: `MemWrite(BAUD, 1, BAUD_VALUE)`. -/
  | wrBaud
  /-- INIT: `MemWrite(CTRLA, 1, CTRLA_ENABLE_MASTER)`. -/
  | wrCtrla
  /-- INIT: `MemWrite(STATUS, 1, STATUS_FORCE_IDLE)`. -/
  | wrStatus
  /-- START, RESTART: `if n == 0 then dir <- 0 else PRC <- n, dir <- 1`. -/
  | setPrc
  /-- START, RESTART: `PHASE <- ADDRESSING`. -/
  | addressing
  /-- START, RESTART: the write of the address byte to ADDR. -/
  | wrAddr
  /-- START, RESTART, WRITE: `s1 <- MemRead(STATUS, 1)` and the test on s1. -/
  | rdS1
  /-- START, RESTART, WRITE variant B: `s2 <- MemRead(STATUS, 1)` and the test on s2. -/
  | rdS2
  /-- START's clean-up, STOP: `MemWrite(CTRLB, 1, CMD_STOP)`, with the reply that ends the command. -/
  | wrStop (r : Reply)
  /-- WRITE: `MemWrite(CTRLB, 1, CMD_PRIME)`. -/
  | wrPrime
  /-- WRITE: `MemWrite(DATA, 1, b)`. -/
  | wrData
  /-- READ: the decrement of PRC; READLAST: `PRC <- 0`. -/
  | takeCount
  /-- READ, READLAST: `d <- MemRead(DATA, 1)`. -/
  | rdData
  /-- READ, READLAST: the CTRLB write that ACKs or NACKs; `d` is the local that holds the byte (R33). -/
  | wrAck (d : Byte)
  deriving DecidableEq, Repr

/-- `upc` (R20, R30): which step of the current command is next, with the command's locals. -/
inductive Upc where
  /-- Waiting for a command. -/
  | idle
  /-- At `raise Fault(c)`, a step of its own between acceptance and what follows it (R12, R198, R199). -/
  | raise (c : FaultCause)
  /-- At a line of the command's pseudocode. -/
  | line (l : Line)
  /-- In a `PollUntil` loop. -/
  | poll (w : Wait)
  /-- At the last update of PHASE, with the reply that follows it. -/
  | setPhase (p : Phase) (r : Reply)
  /-- At `respond`. -/
  | respond (r : Reply)
  deriving DecidableEq, Repr

/-- What the host can do (R212), and `pass`, which lets the block take its next step.  A move that must wait stays
first in the list while the block goes on. -/
inductive HostMove where
  /-- Let the block take one step. -/
  | pass
  /-- Present a command word; the host holds it until the block accepts it (R210). -/
  | issue (w : Word)
  /-- Take the response; waits for RESP_VALID = 1 (R211). -/
  | take
  /-- Read BLK_STATUS (R34). -/
  | readStatus
  /-- Write BLK_STATUS: ignored (R34, U20). -/
  | writeStatus (w : Word)
  /-- Assert the block's reset (R221). -/
  | reset
  deriving DecidableEq, Repr

/-- What the host has been given (R212). -/
inductive Given where
  /-- RESP, at a take. -/
  | response (w : Word)
  /-- BLK_STATUS, at a read of it. -/
  | status (w : Word)
  deriving DecidableEq, Repr

/-- Bytes by address, strictly rising addresses (the canonical form is `Memory.wf`). -/
abbrev Memory := List Host.Cell

/-- The whole machine. -/
structure State where
  /-- The implementation parameters (R7); no step changes them. -/
  cfg : Config
  /-- `pending_read_count` (R22). -/
  prc : Count
  /-- The transaction phase (R25). -/
  phase : Phase
  /-- A command is being executed (R29). -/
  busy : Bool
  /-- The command word being executed (R29). -/
  cmd : Word
  /-- The last response word (R29). -/
  resp : Word
  /-- RESP holds a response the host has not taken (R29). -/
  respValid : Bool
  /-- Sticky: some fault has been recorded (R31). -/
  fault : Bool
  /-- The cause of the first fault recorded (R31). -/
  faultCause : FaultCause
  /-- Status reads of the current poll loop; moved only when POLL_LIMIT is finite (R32). -/
  pollCnt : Nat
  /-- Which step of the current command is next (R30). -/
  upc : Upc
  /-- The byte the block last wrote to each address of the peripheral register space (R60 a); never read back. -/
  mem : Memory
  /-- The block's accesses and pin requests, the newest first (R66, R68). -/
  trace : List Event
  /-- The command port: the word the host holds (R210). -/
  port : Option Word
  /-- The host's coming moves, the next one first (R212). -/
  host : List HostMove
  /-- What the host has been given, the newest first (R212). -/
  given : List Given
  /-- The peripheral's coming answers to register reads, the next one first (R75). -/
  answers : List Byte
  /-- How many register reads have been made; indexes the free answers. -/
  draws : Nat
  deriving DecidableEq, Repr

/-- The reasons a step stops the model. -/
inductive Fault where
  /-- Raised by a meaning (through `Machine.closing`) and by `Machine.illegalTurn` when `upc` stands at a line the
  command's pseudocode does not have.  No run reaches such a state (`Machine.Inv`).  Safe: nothing is made up for
  it. -/
  | strayLine
  deriving DecidableEq, Repr

/-- The reasons a step has no meaning. -/
inductive Refusal where
  /-- Raised only by an arm of `exec` whose instruction has no meaning yet; no arm does.  Safe. -/
  | notModelled (mnemonic : String)
  deriving DecidableEq, Repr

/-- The outcome of one step of this machine. -/
abbrev Result := Host.Outcome State Fault Refusal

/-- The machine right after reset (R220): the block waits for the host's first command, and nothing has been
accessed, presented or answered. -/
def State.reset : State where
  cfg := defaultConfig
  prc := 0#16
  phase := .uninit
  busy := false
  cmd := 0x00000000#32
  resp := 0x00000000#32
  respValid := false
  fault := false
  faultCause := .none
  pollCnt := 0
  upc := .idle
  mem := []
  trace := []
  port := none
  host := []
  given := []
  answers := []
  draws := 0

end Sys2Proof.Machine
end

