-- ==== Sys2Proof/Machine/Flags.lean ====
section
/-! DEFINITION. Flags and codes: the predicates of a status snapshot (10_state.md R44), the codes of PHASE, CAUSE and
FAULT_CAUSE (R25, R98, R200), the response word (R97) and BLK_STATUS (R34). -/

namespace Sys2Proof.Machine

/-- WIF(s): write-complete (R44). -/
def wif (l : Layout) (s : Byte) : Bool := s.getLsbD l.bitWif

/-- RIF(s): read-complete (R44). -/
def rif (l : Layout) (s : Byte) : Bool := s.getLsbD l.bitRif

/-- RXNACK(s): the peer did not acknowledge (R44). -/
def rxnack (l : Layout) (s : Byte) : Bool := s.getLsbD l.bitRxack

/-- ARBLOST(s): arbitration lost (R44). -/
def arblost (l : Layout) (s : Byte) : Bool := s.getLsbD l.bitArblost

/-- BUSERR(s): bus error (R44). -/
def buserr (l : Layout) (s : Byte) : Bool := s.getLsbD l.bitBuserr

/-- BUSIDLE(s): the bus-state field equals IDLE (R44, D27). -/
def busIdle (l : Layout) (s : Byte) : Bool := s &&& l.busMask == l.busIdle

/-- The predicate a poll loop waits for (R196). -/
def waitHolds (l : Layout) : Wait → Byte → Bool
  | .addrDone, s => wif l s || rif l s
  | .wif, s => wif l s
  | .rif, s => rif l s
  | .busIdle _, s => busIdle l s

/-- An error flag is set: ARBLOST or BUSERR (R132, R152). -/
def errorFlagged (l : Layout) (s : Byte) : Bool := arblost l s || buserr l s

/-- The cause of an error snapshot: ARBITRATION_LOST wins when both flags are set (R132, R202 e, D23). -/
def errorCause (l : Layout) (s : Byte) : Cause := if arblost l s then .arbitrationLost else .busError

/-- The codes of PHASE (R25). -/
def Phase.code : Phase → BitVec 3
  | .uninit => 0#3
  | .idle => 1#3
  | .addressing => 2#3
  | .writing => 3#3
  | .reading => 4#3
  | .readEnded => 5#3
  | .unsettled => 6#3

/-- The codes of CAUSE (R98). -/
def Cause.code : Cause → BitVec 4
  | .none => 0#4
  | .arbitrationLost => 1#4
  | .busError => 2#4
  | .addressNack => 3#4
  | .byteNack => 4#4
  | .illegalCommand => 5#4
  | .timeout => 6#4

/-- The codes of FAULT_CAUSE (R200). -/
def FaultCause.code : FaultCause → BitVec 4
  | .none => 0#4
  | .illegalCommand => 1#4
  | .phaseMisuse => 2#4

/-- The reply of a command that succeeds, with its data byte (R97, R98). -/
def Reply.success (data : Byte) : Reply := ⟨true, .none, data⟩

/-- The reply of a command that fails (R97, R98). -/
def Reply.failure (c : Cause) : Reply := ⟨false, c, 0#8⟩

/-- The response word of R97: zero, DATA, CAUSE, zero, OK. -/
def Reply.word (r : Reply) : Word :=
  0#16 ++ r.data ++ r.cause.code ++ 0#3 ++ BitVec.ofBool r.ok

/-- BLK_STATUS of R34: PRC, zero, FAULT_CAUSE, zero, FAULT, BUSY, PHASE. -/
def blkStatus (s : State) : Word :=
  s.prc ++ 0#4 ++ s.faultCause.code ++ 0#3 ++ BitVec.ofBool s.fault ++ BitVec.ofBool s.busy ++ s.phase.code

end Sys2Proof.Machine
end

