-- ==== Sys2Proof/Machine/Operands.lean ====
section
/-! DEFINITION. Operands of the commands: the direction, the address byte (10_state.md R46, 41_start_restart.md R130), the
address of a peripheral register (R40), where each command's body begins, and the phases each command is legal in (R28). -/

namespace Sys2Proof.Machine

/-- `dir`: 1 (read) when the read count is nonzero, 0 (write) when it is zero (R94, R130). -/
def isRead (n : Count) : Bool := n != 0#16

/-- The address byte `(zext_8(a) << 1) | dir` of R46, as the layout places address and direction. -/
def addressByte (l : Layout) (a : PeerAddr) (read : Bool) : Byte :=
  (a.setWidth 8 <<< l.addrShift) ||| (if read then l.dirRead else l.dirWrite)

/-- The offset of a peripheral register (R40). -/
def regOffset (l : Layout) : Reg → Nat
  | .baud => l.offBaud
  | .ctrla => l.offCtrla
  | .ctrlb => l.offCtrlb
  | .status => l.offStatus
  | .addr => l.offAddr
  | .data => l.offData

/-- The address of a peripheral register: PERIPH_BASE and its offset (R40, R60 a). -/
def regAddr (c : Config) (r : Reg) : Nat := c.periphBase + regOffset c.layout r

/-- READ's decrement: by one when nonzero, left at 0 otherwise, so PRC never wraps (R22, R160). -/
def decrement (c : Count) : Count := if c = 0#16 then c else c - 1#16

/-- The phase a successful START or RESTART opens (R134). -/
def openedPhase (n : Count) : Phase := if isRead n then .reading else .writing

/-- The first step of WRITE's body: variant B primes, variant A waits (R152, R153). -/
def writeEntry (v : WriteVariant) : Upc :=
  match v with
  | .b => .line .wrPrime
  | .a => .poll .wif

/-- The first step of each command's body (R120, R130, R140, R150, R160, R170, R180). -/
def bodyEntry (c : Config) : Instr → Upc
  | .init => .line .pinSda
  | .start _ _ => .line .setPrc
  | .restart _ _ => .line .setPrc
  | .write _ => writeEntry c.writeVariant
  | .read => .line .takeCount
  | .readlast => .line .takeCount
  | .stop => .line (.wrStop (.success 0#8))

/-- The phases a command is legal in (R28). -/
def legalIn : Instr → Phase → Bool
  | .init, p => p == .uninit || p == .idle
  | .start _ _, p => p == .idle || p == .writing || p == .readEnded
  | .restart _ _, p => p == .idle || p == .writing || p == .readEnded
  | .write _, p => p == .writing
  | .read, p => p == .reading
  | .readlast, p => p == .reading
  | .stop, p => p == .idle || p == .writing || p == .readEnded || p == .unsettled

end Sys2Proof.Machine
end

