-- ==== Sys2Proof/Machine/Ops.lean ====
section
/-! DEFINITION. The shared operations: memory, the primitives of 00_scope.md R12 (each one step of the block, R8), recording a
fault (60_exceptions.md R200), acceptance (R198), the poll loop with its limit (R197), the block's reset (R221) and the
host's moves (R210-R212). -/

namespace Sys2Proof.Machine

/-! ## Memory -/

/-- The byte at an address; `none` where the block has written nothing. -/
def Memory.get? : Memory → Nat → Option Byte
  | [], _ => none
  | (k, v) :: m, a => if a = k then some v else Memory.get? m a

/-- Store a byte, keeping the addresses strictly rising. -/
def Memory.set : Memory → Nat → Byte → Memory
  | [], a, b => [(a, b)]
  | (k, v) :: m, a, b =>
    if a < k then (a, b) :: (k, v) :: m
    else if a = k then (a, b) :: m
    else (k, v) :: Memory.set m a b

/-- Every address of a memory is above `a`. -/
def Memory.above (a : Nat) (m : Memory) : Bool := m.all fun c => a < c.1

/-- The canonical form: strictly rising addresses.  An unlisted address holds nothing, so no entry can repeat what it
reads as. -/
def Memory.wf : Memory → Bool
  | [] => true
  | (k, _) :: m => Memory.above k m && Memory.wf m

/-- What an event does to the memory: a write stores its byte at the register's address. -/
def Event.store (c : Config) : Event → Memory → Memory
  | .write r v, m => Memory.set m (regAddr c r) v
  | .read _ _, m => m
  | .pin _ _, m => m

/-! ## The primitives of R12 -/

/-- Make `u` the next step.  On entry to a poll loop with a finite limit POLL_CNT becomes 0 (R32, R197). -/
def goTo (u : Upc) (s : State) : State :=
  { s with
    upc := u
    pollCnt := match u, s.cfg.pollLimit with
      | .poll _, some _ => 0
      | _, _ => s.pollCnt }

/-- `MemWrite(reg, 1, v)` (R12): one access. -/
def memWrite (reg : Reg) (v : Byte) (s : State) : State :=
  { s with
    mem := Memory.set s.mem (regAddr s.cfg reg) v
    trace := .write reg v :: s.trace }

/-- The value the peripheral answers to the next register read: the next listed answer, or a free value (R75). -/
def State.answer (s : State) : Byte := s.answers.headD (Config.freeAnswer s.draws)

/-- `MemRead(reg, 1)` (R12): one access, which uses up one answer.  Its value is `s.answer`. -/
def memRead (reg : Reg) (s : State) : State :=
  { s with
    answers := s.answers.tail
    draws := s.draws + 1
    trace := .read reg s.answer :: s.trace }

/-- `PinConfig(line, mode)` (R12, R121). -/
def pinConfig (line : Pin) (mode : PinMode) (s : State) : State :=
  { s with trace := .pin line mode :: s.trace }

/-- `PRC <- c` (R22). -/
def setPrc (c : Count) (s : State) : State := { s with prc := c }

/-- `PHASE <- p` (R25). -/
def setPhase (p : Phase) (s : State) : State := { s with phase := p }

/-- `respond(ok, cause, data)` (R12, R211): RESP and RESP_VALID are set, BUSY is cleared, the command has ended. -/
def respond (r : Reply) (s : State) : State :=
  { s with resp := r.word, respValid := true, busy := false, upc := .idle }

/-- `raise Fault(c)` (R200): the first fault is kept.  This is all the exception entry the block has: no state is
saved, there is no vector and no mode, and no return (R190, R203). -/
def raiseFault (c : FaultCause) (s : State) : State :=
  if s.fault then s else { s with fault := true, faultCause := c }

/-! ## Acceptance (R198) -/

/-- `CMD <- word; BUSY <- 1`, with the word taken off the command port. -/
def latch (w : Word) (s : State) : State := { s with port := none, cmd := w, busy := true }

/-- Where acceptance of a legal command leads: to its body in a PHASE of its row of R28, and otherwise to
`raise Fault(PHASE_MISUSE)`, after which the body runs all the same (R198, R201). -/
def afterAccept (i : Instr) (s : State) : Upc :=
  if legalIn i s.phase then bodyEntry s.cfg i else .raise .phaseMisuse

/-- Acceptance of a legal command: only when BUSY = 0 and RESP_VALID = 0 (R198).  With no word presented, or when the
block may not accept, nothing changes: the host holds its word and waits (R210). -/
def accept (i : Instr) (s : State) : State :=
  match s.port with
  | none => s
  | some w => if s.busy || s.respValid then s else goTo (afterAccept i s) (latch w s)

/-- The step `raise Fault(c)` of a legal command, and on to its body (R12, R198, R201). -/
def raiseThenBody (c : FaultCause) (i : Instr) (s : State) : State := goTo (bodyEntry s.cfg i) (raiseFault c s)

/-- Acceptance of an illegal word: the fault is next (R198, R199). -/
def acceptIllegal (w : Word) (s : State) : State := goTo (.raise .illegalCommand) (latch w s)

/-- The step `raise Fault(c)` of an illegal word, and on to its response (R199). -/
def raiseThenRespond (c : FaultCause) (s : State) : State :=
  goTo (.respond (.failure .illegalCommand)) (raiseFault c s)

/-! ## Poll loops (R12, R197) -/

/-- One more status read of the loop: POLL_CNT counts it when the limit is finite (R32). -/
def countPoll (s : State) : State :=
  { s with pollCnt := if s.cfg.pollLimit.isSome then s.pollCnt + 1 else s.pollCnt }

/-- One turn of `PollUntil`: at the limit the command ends with TIMEOUT (`PHASE <- UNSETTLED` now, the response
next); otherwise one fresh read of STATUS, and on to `next` if it satisfies the predicate (R197). -/
def pollTurn (w : Wait) (next : Upc) (s : State) : State :=
  if s.cfg.pollLimit = some s.pollCnt then
    goTo (.respond (.failure .timeout)) (setPhase .unsettled s)
  else
    let t := countPoll (memRead .status s)
    if waitHolds s.cfg.layout w s.answer then goTo next t else t

/-! ## The end of every command -/

/-- The steps all commands share: the last update of PHASE and the response.  Any other place is none of the
command's. -/
def closing (s : State) : Result :=
  match s.upc with
  | .setPhase p r => .next (goTo (.respond r) (setPhase p s))
  | .respond r => .next (respond r s)
  | _ => .fault .strayLine

/-- The step of an illegal command in progress: the record of the fault, then its response, and nothing else (R199). -/
def illegalTurn (s : State) : Result :=
  match s.upc with
  | .raise c => .next (raiseThenRespond c s)
  | .respond r => .next (respond r s)
  | _ => .fault .strayLine

/-! ## The host (R210-R212) and reset (R221) -/

/-- The block's reset: every item of R220 in one step.  The peripheral, the accesses already made and the host's side
are untouched (R221, R222). -/
def blockReset (s : State) : State :=
  { s with
    prc := 0#16
    phase := .uninit
    busy := false
    cmd := 0x00000000#32
    resp := 0x00000000#32
    respValid := false
    fault := false
    faultCause := .none
    pollCnt := 0
    upc := .idle }

/-- The host's part of a step: the state after it, and whether the block now takes its own step.  A command waits
while the port holds an earlier word; a take waits for a response (R210, R211). -/
def hostTurn (s : State) : State × Bool :=
  match s.host with
  | [] => (s, true)
  | .pass :: ms => ({ s with host := ms }, true)
  | .issue w :: ms => if s.port.isSome then (s, true) else ({ s with host := ms, port := some w }, false)
  | .take :: ms =>
    if s.respValid then ({ s with host := ms, respValid := false, given := .response s.resp :: s.given }, false)
    else (s, true)
  | .readStatus :: ms => ({ s with host := ms, given := .status (blkStatus s) :: s.given }, false)
  | .writeStatus _ :: ms => ({ s with host := ms }, false)
  | .reset :: ms => (blockReset { s with host := ms }, false)

end Sys2Proof.Machine
end

