-- ==== Sys2Proof/Machine/ByteTransfer.lean ====
section
/-! DEFINITION. WRITE, READ and READLAST (42_byte_transfer.md R150-R171): the operations of `byte_transfer_controller`. -/

namespace Sys2Proof.Machine

/-- The response of WRITE by the acknowledge bit of the snapshot that decides it (R152, R153). -/
def ackReply (l : Layout) (s : Byte) : Upc :=
  if rxnack l s then .respond (.failure .byteNack) else .respond (.success 0#8)

/-- Variant B after s1 (R152): an error ends the command in UNSETTLED, otherwise s2 is read. -/
def afterWriteS1 (l : Layout) (s1 : Byte) : Upc :=
  if errorFlagged l s1 then .setPhase .unsettled (.failure (errorCause l s1)) else .line .rdS2

/-- WRITE, variant B (R152): prime, load, wait, check errors, check acknowledge. -/
def writeBodyB (b : Byte) (s : State) : Result :=
  match s.upc with
  | .line .wrPrime => .next (goTo (.line .wrData) (memWrite .ctrlb s.cfg.layout.cmdPrime s))
  | .line .wrData => .next (goTo (.poll .wif) (memWrite .data b s))
  | .poll .wif => .next (pollTurn .wif (.line .rdS1) s)
  | .line .rdS1 => .next (goTo (afterWriteS1 s.cfg.layout s.answer) (memRead .status s))
  | .line .rdS2 => .next (goTo (ackReply s.cfg.layout s.answer) (memRead .status s))
  | _ => closing s

/-- WRITE, variant A (R153): wait, load, prime, check acknowledge. -/
def writeBodyA (b : Byte) (s : State) : Result :=
  match s.upc with
  | .poll .wif => .next (pollTurn .wif (.line .wrData) s)
  | .line .wrData => .next (goTo (.line .wrPrime) (memWrite .data b s))
  | .line .wrPrime => .next (goTo (.line .rdS1) (memWrite .ctrlb s.cfg.layout.cmdPrime s))
  | .line .rdS1 => .next (goTo (ackReply s.cfg.layout s.answer) (memRead .status s))
  | _ => closing s

/-- WRITE (R150): the body of the configured variant. -/
def execWrite (b : Byte) (s : State) : Result :=
  match s.upc, s.cfg.writeVariant with
  | .idle, _ => .next (accept (.write b) s)
  | .raise c, _ => .next (raiseThenBody c (.write b) s)
  | _, .b => writeBodyB b s
  | _, .a => writeBodyA b s

/-- The wait for the byte and its capture, shared by READ and READLAST (R160, R170). -/
def receive (s : State) : Result :=
  match s.upc with
  | .poll .rif => .next (pollTurn .rif (.line .rdData) s)
  | .line .rdData => .next (goTo (.line (.wrAck s.answer)) (memRead .data s))
  | _ => closing s

/-- The NACK of the final byte: CMD_NACK, then READ_ENDED and the response (R160, R170). -/
def nackFinal (d : Byte) (s : State) : State :=
  goTo (.setPhase .readEnded (.success d)) (memWrite .ctrlb s.cfg.layout.cmdNack s)

/-- The ACK of a byte that is not the last: CMD_ACK_CONTINUE, then the response (R160). -/
def ackContinue (d : Byte) (s : State) : State :=
  goTo (.respond (.success d)) (memWrite .ctrlb s.cfg.layout.cmdAckContinue s)

/-- READ (R160): the acknowledge is decided by PRC after the decrement (R161).  No error flag is tested (R163). -/
def execRead (s : State) : Result :=
  match s.upc with
  | .idle => .next (accept .read s)
  | .raise c => .next (raiseThenBody c .read s)
  | .line .takeCount => .next (goTo (.poll .rif) (setPrc (decrement s.prc) s))
  | .line (.wrAck d) => .next (if s.prc = 0#16 then nackFinal d s else ackContinue d s)
  | _ => receive s

/-- READLAST (R170): PRC <- 0, and the byte is NACKed. -/
def execReadlast (s : State) : Result :=
  match s.upc with
  | .idle => .next (accept .readlast s)
  | .raise c => .next (raiseThenBody c .readlast s)
  | .line .takeCount => .next (goTo (.poll .rif) (setPrc 0#16 s))
  | .line (.wrAck d) => .next (nackFinal d s)
  | _ => receive s

end Sys2Proof.Machine
end

