-- ==== Sys2Proof/Machine/Initialize.lean ====
section
/-! DEFINITION. INIT (40_initialize.md R120-R125): the initialize operation of `i2c_master_fsm`. -/

namespace Sys2Proof.Machine

/-- INIT (R120): two pin requests, three register writes, PHASE <- IDLE, response.  It reads nothing and has no
poll. -/
def execInit (s : State) : Result :=
  match s.upc with
  | .idle => .next (accept .init s)
  | .raise c => .next (raiseThenBody c .init s)
  | .line .pinSda => .next (goTo (.line .pinScl) (pinConfig .sda .inputPullup s))
  | .line .pinScl => .next (goTo (.line .wrBaud) (pinConfig .scl .inputPullup s))
  | .line .wrBaud => .next (goTo (.line .wrCtrla) (memWrite .baud s.cfg.baudValue s))
  | .line .wrCtrla => .next (goTo (.line .wrStatus) (memWrite .ctrla s.cfg.layout.ctrlaEnableMaster s))
  | .line .wrStatus =>
    .next (goTo (.setPhase .idle (.success 0#8)) (memWrite .status s.cfg.layout.statusForceIdle s))
  | _ => closing s

end Sys2Proof.Machine
end

