-- ==== Sys2Proof/Machine/StartStop.lean ====
section
/-! DEFINITION. START and RESTART (41_start_restart.md R130-R141) and STOP (43_stop.md R180-R183): the operations of
`start_stop_sequencer`. -/

namespace Sys2Proof.Machine

/-- Outcome 1 of START (R132): what follows a failing s1.  The newer design waits for bus idle, the older one ends in
UNSETTLED. -/
def addressError (c : Config) (cause : Cause) : Upc :=
  if c.busIdleWait then .poll (.busIdle (.failure cause)) else .setPhase .unsettled (.failure cause)

/-- Outcome 2 of START (R133): what follows a NACK in s2.  The newer design writes CMD_STOP first. -/
def addressNack (c : Config) : Upc :=
  if c.busIdleWait then .line (.wrStop (.failure .addressNack)) else .setPhase .unsettled (.failure .addressNack)

/-- What s1 decides (R132, R136): an error, or on to s2. -/
def afterS1 (c : Config) (s1 : Byte) : Upc :=
  if errorFlagged c.layout s1 then addressError c (errorCause c.layout s1) else .line .rdS2

/-- What s2 decides (R133, R134): a NACK, or an open transaction. -/
def afterS2 (c : Config) (n : Count) (s2 : Byte) : Upc :=
  if rxnack c.layout s2 then addressNack c else .setPhase (openedPhase n) (.success 0#8)

/-- The body START and RESTART share (R130, R140), after acceptance. -/
def startBody (a : PeerAddr) (n : Count) (s : State) : Result :=
  match s.upc with
  | .line .setPrc => .next (goTo (.line .addressing) (if isRead n then setPrc n s else s))
  | .line .addressing => .next (goTo (.line .wrAddr) (setPhase .addressing s))
  | .line .wrAddr => .next (goTo (.poll .addrDone) (memWrite .addr (addressByte s.cfg.layout a (isRead n)) s))
  | .poll .addrDone => .next (pollTurn .addrDone (.line .rdS1) s)
  | .line .rdS1 => .next (goTo (afterS1 s.cfg s.answer) (memRead .status s))
  | .line .rdS2 => .next (goTo (afterS2 s.cfg n s.answer) (memRead .status s))
  | .line (.wrStop r) => .next (goTo (.poll (.busIdle r)) (memWrite .ctrlb s.cfg.layout.cmdStop s))
  | .poll (.busIdle r) => .next (pollTurn (.busIdle r) (.setPhase .idle r) s)
  | _ => closing s

/-- START (R130). -/
def execStart (a : PeerAddr) (n : Count) (s : State) : Result :=
  match s.upc with
  | .idle => .next (accept (.start a n) s)
  | .raise c => .next (raiseThenBody c (.start a n) s)
  | _ => startBody a n s

/-- RESTART (R140): the body of START; no step differs. -/
def execRestart (a : PeerAddr) (n : Count) (s : State) : Result :=
  match s.upc with
  | .idle => .next (accept (.restart a n) s)
  | .raise c => .next (raiseThenBody c (.restart a n) s)
  | _ => startBody a n s

/-- What follows STOP's write of CMD_STOP (R180): the newer design waits for bus idle, the older one does not. -/
def afterStop (c : Config) (r : Reply) : Upc :=
  if c.busIdleWait then .poll (.busIdle r) else .setPhase .idle r

/-- STOP (R180). -/
def execStop (s : State) : Result :=
  match s.upc with
  | .idle => .next (accept .stop s)
  | .raise c => .next (raiseThenBody c .stop s)
  | .line (.wrStop r) => .next (goTo (afterStop s.cfg r) (memWrite .ctrlb s.cfg.layout.cmdStop s))
  | .poll (.busIdle r) => .next (pollTurn (.busIdle r) (.setPhase .idle r) s)
  | _ => closing s

end Sys2Proof.Machine
end

