-- ==== Sys2Proof/Machine/Dispatch.lean ====
section
/-! DEFINITION. One step of a command, one arm per constructor of `Instr`. -/

namespace Sys2Proof.Machine

def exec (i : Instr) (s : State) : Host.Outcome State Fault Refusal :=
  match i with
  | .init => Sys2Proof.Machine.execInit s
  | .start a n => Sys2Proof.Machine.execStart a n s
  | .restart a n => Sys2Proof.Machine.execRestart a n s
  | .write b => Sys2Proof.Machine.execWrite b s
  | .read => Sys2Proof.Machine.execRead s
  | .readlast => Sys2Proof.Machine.execReadlast s
  | .stop => Sys2Proof.Machine.execStop s

end Sys2Proof.Machine
end

