-- ==== Sys2Proof/Machine/Block.lean ====
section
/-! DEFINITION. The block's own step: which word it takes (10_state.md R29, R30, 60_exceptions.md R198, R210) and which
command it runs. -/

namespace Sys2Proof.Machine

/-- The word the block works on: CMD while BUSY, else the presented word once the last response has been taken. -/
def fetch (s : State) : Option Word :=
  if s.busy then some s.cmd else if s.respValid then none else s.port

/-- The step of an illegal word: its acceptance, or its fault and its response (R199). -/
def illegalStep (w : Word) (s : State) : Result :=
  if s.busy then illegalTurn s else .next (acceptIllegal w s)

/-- One step of the block: nothing to do, one step of the command its word stands for, or of an illegal word. -/
def blockStep (s : State) : Result :=
  match fetch s with
  | none => .next s
  | some w =>
    match decode w with
    | .ok i => exec i s
    | .error _ => illegalStep w s

/-- Present a word so that the block takes it next: on the command port, with no command or response in the way and
no host move first. -/
def presentWord (w : Word) (s : State) : State :=
  { s with port := some w, busy := false, respValid := false, upc := .idle, host := [] }

end Sys2Proof.Machine
end

