-- ==== Sys2Proof/Machine/Step.lean ====
section
/-! DEFINITION. One step of the machine (00_scope.md R8, R9): the host's move, or else one step of the block.  The peripheral
acts through the answers the block reads. -/

namespace Sys2Proof.Machine

/-- One step: the host's part, and the block's own step when the host leaves it to the block. -/
def step (s : State) : Host.Outcome State Fault Refusal :=
  if (hostTurn s).2 then blockStep (hostTurn s).1 else .next (hostTurn s).1

/-- `k` steps, stopping at the first that answers no next state. -/
def steps : Nat → State → Host.Outcome State Fault Refusal
  | 0, s => .next s
  | k + 1, s =>
    match step s with
    | .next t => steps k t
    | .fault r => .fault r
    | .refused r => .refused r

/-- The command word `w` placed where the very next step takes it, bits above `nbits` zero. -/
def State.withFetchWord (s : State) (nbits w : Nat) : State :=
  presentWord (BitVec.ofNat 32 (w % 2 ^ nbits)) s

end Sys2Proof.Machine
end

