-- ==== Sys2Proof/Machine/Assembler.lean ====
section
/-! DEFINITION. The assembler of 30_encoding.md R100: one command per line, mnemonics in any case, numbers in decimal or with
a 0x prefix, operands separated by a comma; an operand out of range is an error, never truncated (U21).  There are no
pseudo-instructions (R101). -/

namespace Sys2Proof.Machine

/-- Why a line is no command. -/
inductive AsmError where
  /-- The line does not have the shape of R100's table. -/
  | badLine
  /-- An operand is outside its range (R100). -/
  | outOfRange
  deriving DecidableEq, Repr

/-- The command of an assembly line's operands, refused when one is out of range (R100). -/
def Source.toInstr (c : Source) : Except AsmError Instr :=
  if c.wellFormed then
    .ok (match c with
      | .init => .init
      | .start a n => .start (BitVec.ofNat 7 a) (BitVec.ofNat 16 n)
      | .restart a n => .restart (BitVec.ofNat 7 a) (BitVec.ofNat 16 n)
      | .write b => .write (BitVec.ofNat 8 b)
      | .read => .read
      | .readlast => .readlast
      | .stop => .stop)
  else .error .outOfRange

/-- A blank between the parts of a line. -/
def isBlank (c : Char) : Bool := c == ' ' || c == '\t'

/-- A piece of a line without the blanks around it. -/
def trimBlanks (cs : List Char) : List Char :=
  ((cs.dropWhile isBlank).reverse.dropWhile isBlank).reverse

/-- A letter in upper case. -/
def upper (c : Char) : Char := if 'a' ≤ c ∧ c ≤ 'z' then Char.ofNat (c.toNat - 32) else c

/-- The value of a decimal digit. -/
def decDigit (c : Char) : Option Nat := if '0' ≤ c ∧ c ≤ '9' then some (c.toNat - 48) else none

/-- The value of a hexadecimal digit. -/
def hexDigit (c : Char) : Option Nat :=
  if '0' ≤ c ∧ c ≤ '9' then some (c.toNat - 48)
  else if 'A' ≤ upper c ∧ upper c ≤ 'F' then some ((upper c).toNat - 55)
  else none

/-- Digits read from the left in a base. -/
def digits (base : Nat) (value : Char → Option Nat) : Nat → List Char → Option Nat
  | acc, [] => some acc
  | acc, c :: cs =>
    match value c with
    | some d => digits base value (base * acc + d) cs
    | none => none

/-- A number: decimal, or hexadecimal with a 0x prefix (R100); at least one digit. -/
def number (cs : List Char) : Option Nat :=
  match cs with
  | [] => none
  | ['0', 'x'] => none
  | '0' :: 'x' :: ds => digits 16 hexDigit 0 ds
  | ds => digits 10 decDigit 0 ds

/-- The pieces of an operand list between commas. -/
def splitCommas : List Char → List (List Char)
  | [] => [[]]
  | c :: cs =>
    if c == ',' then [] :: splitCommas cs
    else
      match splitCommas cs with
      | [] => [[c]]
      | p :: ps => (c :: p) :: ps

/-- The operands of a line: none, or numbers between commas. -/
def operands (cs : List Char) : Option (List Nat) :=
  if (trimBlanks cs).isEmpty then some [] else (splitCommas cs).mapM fun p => number (trimBlanks p)

/-- The command a mnemonic and its operands name (the table of R100). -/
def sourceOf (mnemonic : List Char) (ops : List Nat) : Option Source :=
  if mnemonic = ['I', 'N', 'I', 'T'] then (match ops with | [] => some .init | _ => none)
  else if mnemonic = ['S', 'T', 'A', 'R', 'T'] then (match ops with | [a, n] => some (.start a n) | _ => none)
  else if mnemonic = ['R', 'E', 'S', 'T', 'A', 'R', 'T'] then
    (match ops with | [a, n] => some (.restart a n) | _ => none)
  else if mnemonic = ['W', 'R', 'I', 'T', 'E'] then (match ops with | [b] => some (.write b) | _ => none)
  else if mnemonic = ['R', 'E', 'A', 'D'] then (match ops with | [] => some .read | _ => none)
  else if mnemonic = ['R', 'E', 'A', 'D', 'L', 'A', 'S', 'T'] then
    (match ops with | [] => some .readlast | _ => none)
  else if mnemonic = ['S', 'T', 'O', 'P'] then (match ops with | [] => some .stop | _ => none)
  else none

/-- A line as a command with its operands. -/
def parseLine (line : List Char) : Option Source :=
  let cs := trimBlanks line
  let word := cs.takeWhile fun c => !isBlank c
  (operands (cs.dropWhile fun c => !isBlank c)).bind (sourceOf (word.map upper))

/-- The word of an assembly line (R100). -/
def assemble (line : List Char) : Except AsmError Word :=
  match parseLine line with
  | none => .error .badLine
  | some c => (Source.toInstr c).map encode

end Sys2Proof.Machine
end

