-- ==== Sys2Proof/Machine/Contract.lean ====
section
/-! DEFINITION. What the spec says the peripheral does (20_memory.md R75-R84), as NAMED ASSUMPTIONS a claim may take.  The step
never uses them: every value the block reads is a free answer (R75). -/

namespace Sys2Proof.Machine

/-- The answer to the k-th register read from here on: a listed one, or a free value. -/
def State.nthAnswer (s : State) (k : Nat) : Byte :=
  match s.answers[k]? with
  | some b => b
  | none => Config.freeAnswer (s.draws + k)

/-- `bs` is what the next reads get, one after the other, from a list of answers and the count of reads made: listed
answers first, then free values. -/
def answeredBy (answers : List Byte) (draws : Nat) : List Byte → Prop
  | [] => True
  | b :: bs => answers.headD (Config.freeAnswer draws) = b ∧ answeredBy answers.tail (draws + 1) bs

/-- The peripheral's answers to the next register reads are `bs`, in order (R75). -/
def NextAnswers (s : State) (bs : List Byte) : Prop := answeredBy s.answers s.draws bs

/-- Some later read is answered by a byte that satisfies `p`, if the block goes on reading STATUS.  DESIGN CHOICE (log 25):
later answers are counted by reads, and a state does not say which register they answer, nor whether a flag is an older
one (R84). -/
def EventuallyReads (p : Byte → Bool) (s : State) : Prop := ∃ k, p (s.nthAnswer k) = true

/-- No later read is answered by a snapshot that satisfies `p` (R83: a peer that never answers, a stuck bus). -/
def NeverReads (p : Byte → Bool) (s : State) : Prop := ∀ k, p (s.nthAnswer k) = false

/-- The flag a poll loop waits for is eventually read set: what a claim that a command ends must assume (R83). -/
def FlagComes (w : Wait) (s : State) : Prop := EventuallyReads (waitHolds s.cfg.layout w) s

/-- A snapshot that shows exactly one of write-complete and read-complete.  DESIGN CHOICE (log 25): R77 says that exactly
one of the two becomes set after the address byte, and R84 leaves open whether an older flag still stands beside it. -/
def OneCompletion (l : Layout) (snapshot : Byte) : Prop := wif l snapshot ≠ rif l snapshot

/-- The STATUS answers that follow a write of `v` to `reg` directly, up to the next write, in a list of events with the
oldest first. -/
def snapshotsAfter (reg : Reg) (v : Byte) : List Event → List (List Byte)
  | [] => []
  | .write r b :: es =>
    (if r = reg ∧ b = v then [run es] else []) ++ snapshotsAfter reg v es
  | .read _ _ :: es => snapshotsAfter reg v es
  | .pin _ _ :: es => snapshotsAfter reg v es
where
  /-- The STATUS answers before the next write. -/
  run : List Event → List Byte
    | .read .status b :: es => b :: run es
    | .read _ _ :: es => run es
    | .pin _ _ :: es => run es
    | .write _ _ :: _ => []
    | [] => []

/-- R77 as an assumption on a run's accesses (oldest first), and more: the snapshot that ends the poll after an address
byte shows exactly one completion flag.  DESIGN CHOICE (log 25): R77 says that one becomes set, not that no older flag
stands beside it (R84). -/
def AddressCompletesOnce (c : Config) (evs : List Event) : Prop :=
  ∀ v, ∀ run ∈ snapshotsAfter .addr v evs,
    ∀ b ∈ run.find? (fun x => wif c.layout x || rif c.layout x), OneCompletion c.layout b

/-- R80 as an assumption, and more: once a snapshot after a STOP command shows the bus idle, so do the later ones up to
the next write.  DESIGN CHOICE (log 23): R80 says that the bus returns to idle, not that it stays so. -/
def StopSettles (c : Config) (evs : List Event) : Prop :=
  ∀ run ∈ snapshotsAfter .ctrlb c.layout.cmdStop evs,
    ∀ pre b post, run = pre ++ b :: post → busIdle c.layout b = true → ∀ x ∈ post, busIdle c.layout x = true

/-- R80 as an assumption: after a STOP command the bus is eventually read idle. -/
def StopIdlesBus (s : State) : Prop := EventuallyReads (busIdle s.cfg.layout) s

/-- R81 as an assumption: after an ACK the next byte comes, which is eventually read as read-complete. -/
def NextByteComes (s : State) : Prop := EventuallyReads (rif s.cfg.layout) s

/-- R82 as an assumption: write-complete is eventually read set. -/
def WriteCompletes (s : State) : Prop := EventuallyReads (wif s.cfg.layout) s

end Sys2Proof.Machine
end

