-- ==== Sys2Proof/Safety.lean ====
section
/-! DEFINITION. What a run is judged by: its end (60_exceptions.md R213), the invariant of the reachable states, the table of the
replies each command can give (30_encoding.md R99) and of the phases it can end in (10_state.md R27), and the end state of a
whole command in terms of its accesses. -/

namespace Sys2Proof.Machine

/-! ## Runs -/

/-- A run has ended: no host move is left, no word is held, no command runs and no response waits to be taken (R213).
DESIGN CHOICE (log 24): R213 speaks of a last command that has responded and whose response the host has taken; a run
counts as ended here too when a reset abandoned its last command without a response (R221), or discarded a response the
host had not taken. -/
def runEnded (s : State) : Bool := s.host.isEmpty && s.port.isNone && !s.busy && !s.respValid

/-- A run that a claim may speak about: it has ended with no fault recorded (R200).  DESIGN CHOICE (log 24): a fault that
a reset cleared no longer counts. -/
def runSafe (s : State) : Bool := runEnded s && !s.fault

/-! ## Where a command can be -/

/-- START and RESTART. -/
def isStart : Instr → Bool
  | .start _ _ => true
  | .restart _ _ => true
  | .init => false
  | .write _ => false
  | .read => false
  | .readlast => false
  | .stop => false

/-- WRITE. -/
def isWrite : Instr → Bool
  | .write _ => true
  | .init => false
  | .start _ _ => false
  | .restart _ _ => false
  | .read => false
  | .readlast => false
  | .stop => false

/-- Where each poll loop of START and RESTART goes on to (R130). -/
def startPoll : Wait → Option Upc
  | .addrDone => some (.line .rdS1)
  | .wif => none
  | .rif => none
  | .busIdle r => some (.setPhase .idle r)

/-- Where WRITE's poll loop goes on to (R152, R153). -/
def writePoll (v : WriteVariant) : Wait → Option Upc
  | .addrDone => none
  | .wif => some (match v with | .b => .line .rdS1 | .a => .line .wrData)
  | .rif => none
  | .busIdle _ => none

/-- Where the poll loop of READ and READLAST goes on to (R160, R170). -/
def readPoll : Wait → Option Upc
  | .addrDone => none
  | .wif => none
  | .rif => some (.line .rdData)
  | .busIdle _ => none

/-- Where STOP's poll loop goes on to (R180). -/
def stopPoll : Wait → Option Upc
  | .addrDone => none
  | .wif => none
  | .rif => none
  | .busIdle r => some (.setPhase .idle r)

/-- Where a poll loop of a command goes on to when its predicate holds; `none` where the command has no such loop
(the list of R196). -/
def afterPoll (i : Instr) (c : Config) (w : Wait) : Option Upc :=
  match i with
  | .init => none
  | .start _ _ => startPoll w
  | .restart _ _ => startPoll w
  | .write _ => writePoll c.writeVariant w
  | .read => readPoll w
  | .readlast => readPoll w
  | .stop => stopPoll w

/-- The failures START and RESTART report (R99). -/
def addressFailure (r : Reply) : Bool :=
  r == .failure .arbitrationLost || r == .failure .busError || r == .failure .addressNack

/-- The failures WRITE variant B reports beside BYTE_NACK (R99). -/
def writeFailure (r : Reply) : Bool := r == .failure .arbitrationLost || r == .failure .busError

/-- TIMEOUT, possible only when POLL_LIMIT is finite (R98, R99). -/
def timeoutReply (c : Config) (r : Reply) : Bool := c.pollLimit.isSome && r == .failure .timeout

/-- The responses each command can give (R99). -/
def replyAllowed (c : Config) : Instr → Reply → Bool
  | .init, r => r == .success 0#8
  | .start _ _, r => r == .success 0#8 || addressFailure r || timeoutReply c r
  | .restart _ _, r => r == .success 0#8 || addressFailure r || timeoutReply c r
  | .write _, r =>
    r == .success 0#8 || r == .failure .byteNack || (c.writeVariant == .b && writeFailure r) || timeoutReply c r
  | .read, r => r == .success r.data || timeoutReply c r
  | .readlast, r => r == .success r.data || timeoutReply c r
  | .stop, r => r == .success 0#8 || (c.busIdleWait && timeoutReply c r)

/-- The phase a failed START or RESTART ends in (R27, R195). -/
def failedPhase (c : Config) : Phase := if c.busIdleWait then .idle else .unsettled

/-- The last PHASE updates of each command, with the reply that follows (R27). -/
def endPhase (c : Config) : Instr → Phase → Reply → Bool
  | .init, p, r => p == .idle && r == .success 0#8
  | .start _ n, p, r =>
    (p == openedPhase n && r == .success 0#8) || (p == failedPhase c && addressFailure r)
  | .restart _ n, p, r =>
    (p == openedPhase n && r == .success 0#8) || (p == failedPhase c && addressFailure r)
  | .write _, p, r => c.writeVariant == .b && p == .unsettled && writeFailure r
  | .read, p, r => p == .readEnded && r == .success r.data
  | .readlast, p, r => p == .readEnded && r == .success r.data
  | .stop, p, r => p == .idle && r == .success 0#8

/-- The replies a wait for bus idle, or the write of CMD_STOP, can carry. -/
def carriedReply (c : Config) (i : Instr) (r : Reply) : Bool :=
  match i with
  | .start _ _ => c.busIdleWait && addressFailure r
  | .restart _ _ => c.busIdleWait && addressFailure r
  | .stop => r == .success 0#8
  | .init => false
  | .write _ => false
  | .read => false
  | .readlast => false

/-- The lines of each command's pseudocode (R120-R180). -/
def hasLine (c : Config) (i : Instr) (l : Line) : Bool :=
  match l with
  | .pinSda => i == .init
  | .pinScl => i == .init
  | .wrBaud => i == .init
  | .wrCtrla => i == .init
  | .wrStatus => i == .init
  | .setPrc => isStart i
  | .addressing => isStart i
  | .wrAddr => isStart i
  | .rdS1 => isStart i || isWrite i
  | .rdS2 => isStart i || (isWrite i && c.writeVariant == .b)
  | .wrStop r => carriedReply c i r
  | .wrPrime => isWrite i
  | .wrData => isWrite i
  | .takeCount => i == .read || i == .readlast
  | .rdData => i == .read || i == .readlast
  | .wrAck _ => i == .read || i == .readlast

/-- The poll loops of each command, with the reply a wait for bus idle carries (R196). -/
def hasPoll (c : Config) (i : Instr) (w : Wait) : Bool :=
  (afterPoll i c w).isSome && (match w with | .busIdle r => c.busIdleWait && carriedReply c i r | _ => true)

/-- `upc` stands at a place of the command, after its acceptance. -/
def atLine (c : Config) (i : Instr) : Upc → Bool
  | .idle => false
  | .raise f => f == .phaseMisuse
  | .line l => hasLine c i l
  | .poll w => hasPoll c i w
  | .setPhase p r => endPhase c i p r
  | .respond r => replyAllowed c i r

/-- The places of START and RESTART from the address write to the outcome, where PHASE is ADDRESSING (R25). -/
def inAddressPhase : Upc → Bool
  | .line l => l != .setPrc && l != .addressing
  | .poll _ => true
  | .setPhase _ _ => true
  | .idle => false
  | .raise _ => false
  | .respond _ => false

/-- The register a step stores to, by the line that is next (R120-R180). -/
def storesTo : Upc → Option Reg
  | .line .wrBaud => some .baud
  | .line .wrCtrla => some .ctrla
  | .line .wrStatus => some .status
  | .line .wrAddr => some .addr
  | .line (.wrStop _) => some .ctrlb
  | .line .wrPrime => some .ctrlb
  | .line .wrData => some .data
  | .line (.wrAck _) => some .ctrlb
  | _ => none

/-- The rows of R28: the phases each command is in phase in. -/
def phasesOf : Instr → List Phase
  | .init => [.uninit, .idle]
  | .start _ _ => [.idle, .writing, .readEnded]
  | .restart _ _ => [.idle, .writing, .readEnded]
  | .write _ => [.writing]
  | .read => [.reading]
  | .readlast => [.reading]
  | .stop => [.idle, .writing, .readEnded, .unsettled]

/-! ## The invariant -/

/-- The command in progress: the one CMD stands for while BUSY (R29). -/
def running (s : State) : Option Instr := if s.busy then (decode s.cmd).toOption else none

/-- The invariant of the block: memory canonical; `upc` idle exactly between commands; a running command at a place of
its own, with no response pending; an illegal word only at its fault or its response; a misuse only out of phase; FAULT_CAUSE recorded exactly when FAULT is;
ADDRESSING only inside START and RESTART; POLL_CNT within its limit. -/
structure Inv (s : State) : Prop where
  memory : Memory.wf s.mem = true
  idle : s.busy = false → s.upc = .idle
  noResponse : s.busy = true → s.respValid = false
  legal : ∀ i, s.busy = true → decode s.cmd = .ok i → atLine s.cfg i s.upc = true
  illegal : ∀ e, s.busy = true → decode s.cmd = .error e →
    s.upc = .raise .illegalCommand ∨ s.upc = .respond (.failure .illegalCommand)
  misuse : ∀ i c, running s = some i → s.upc = .raise c → s.phase ∉ phasesOf i
  cause : s.fault = false ↔ s.faultCause = .none
  addressing : s.phase = .addressing →
    inAddressPhase s.upc = true ∧ ∃ i, running s = some i ∧ isStart i = true
  pollBound : ∀ l w, s.cfg.pollLimit = some l → s.upc = .poll w → s.pollCnt ≤ l

/-- The places of READ and READLAST after the count has been taken. -/
def countTaken : Upc → Bool
  | .poll .rif => true
  | .line .rdData => true
  | .line (.wrAck _) => true
  | .setPhase .readEnded _ => true
  | _ => false

/-- The places of START and RESTART after the count has been stored, up to the outcome. -/
def countStored : Upc → Bool
  | .line .setPrc => false
  | .line _ => true
  | .poll _ => true
  | .setPhase _ _ => true
  | .idle => false
  | .raise _ => false
  | .respond _ => false

/-- What PRC and PHASE say of each other (R22, R23, R25): between commands PRC is nonzero in READING and zero in
READ_ENDED.  The other clauses say the same for each place of a running command. -/
structure CountInv (s : State) : Prop where
  reading : s.phase = .reading → s.prc = 0#16 →
    countTaken s.upc = true ∧ (running s = some .read ∨ running s = some .readlast)
  ended : s.phase = .readEnded → s.prc ≠ 0#16 →
    s.upc = .line .addressing ∧ ∃ i, running s = some i ∧ isStart i = true
  last : running s = some .readlast → countTaken s.upc = true → s.prc = 0#16
  nacked : running s = some .read → ∀ r, s.upc = .setPhase .readEnded r → s.prc = 0#16
  started : ∀ a n, (running s = some (.start a n) ∨ running s = some (.restart a n)) → isRead n = true →
    countStored s.upc = true → s.prc = n

/-! ## Whole commands -/

/-- The block is between commands and the host presents the word of `i`, with no other host move pending. -/
def Presented (i : Instr) (s : State) : Prop :=
  s.host = [] ∧ s.port = some (encode i) ∧ s.busy = false ∧ s.respValid = false ∧ s.upc = .idle

/-- The snapshots of a poll loop: every one of `waits` fails the predicate and `last` satisfies it (R12). -/
def PollEnds (c : Config) (w : Wait) (waits : List Byte) (last : Byte) : Prop :=
  (∀ b ∈ waits, waitHolds c.layout w b = false) ∧ waitHolds c.layout w last = true

/-- A finite POLL_LIMIT is not reached by `k` failing reads and one good one (R197). -/
def LimitAllows (c : Config) (k : Nat) : Prop := ∀ l, c.pollLimit = some l → k < l

/-- Reads of STATUS with these answers, in order. -/
def statusReads (bs : List Byte) : List Event := bs.map (Event.read .status)

/-- How many of the events are register reads. -/
def readCount : List Event → Nat
  | [] => 0
  | .read _ _ :: es => readCount es + 1
  | .write _ _ :: es => readCount es
  | .pin _ _ :: es => readCount es

/-- The state after a whole command `i` that was accepted in `s` and made the events `evs` (oldest first): its word in
CMD, its response in RESP, the new PHASE and PRC, the misuse of an out-of-phase command recorded, the events appended to
the trace, their writes in memory and their answers used up.  `cnt` is POLL_CNT, which the host cannot see (R32). -/
def ended (i : Instr) (s : State) (r : Reply) (p : Phase) (c : Count) (evs : List Event) (cnt : Nat) : State :=
  { s with
    prc := c
    phase := p
    busy := false
    cmd := encode i
    resp := r.word
    respValid := true
    fault := s.fault || !legalIn i s.phase
    faultCause := if s.fault || legalIn i s.phase then s.faultCause else .phaseMisuse
    pollCnt := cnt
    upc := .idle
    mem := evs.foldl (fun m e => e.store s.cfg m) s.mem
    trace := evs.reverse ++ s.trace
    port := none
    answers := s.answers.drop (readCount evs)
    draws := s.draws + readCount evs }

/-- A command out of phase takes one step more, `raise Fault(PHASE_MISUSE)` (R198, R201). -/
def raiseSteps (i : Instr) (p : Phase) : Nat := if legalIn i p then 0 else 1

/-- After `k` steps, and one more out of phase, the whole command has run: the state is `ended` for some value of the
invisible POLL_CNT. -/
def CompletesIn (k : Nat) (i : Instr) (s : State) (r : Reply) (p : Phase) (c : Count) (evs : List Event) : Prop :=
  ∃ cnt, steps (k + raiseSteps i s.phase) s = .next (ended i s r p c evs cnt)

/-! ## Two runs -/

/-- Two states that agree on everything but the shadow state PHASE, FAULT and FAULT_CAUSE, and what the host has been
given (R26, R34). -/
def SameButShadow (s t : State) : Prop :=
  t = { s with phase := t.phase, fault := t.fault, faultCause := t.faultCause, given := t.given }

/-- A step of the block together with the `raise Fault` it leads to, which makes no access: the two designs of R26, with
and without PHASE, are compared after it. -/
def pastRaise (r : Result) : Result :=
  match r with
  | .next t => (match t.upc with | .raise _ => blockStep t | _ => .next t)
  | .fault f => .fault f
  | .refused f => .refused f

/-- Two outcomes of the same kind whose states agree but for the shadow state. -/
def SameOutcome : Result → Result → Prop
  | .next s, .next t => SameButShadow s t
  | .fault a, .fault b => a = b
  | .refused a, .refused b => a = b
  | _, _ => False

end Sys2Proof.Machine
end

