-- ==== Sys2Proof/Certificates/Slice0/Obligations.lean ====
section
/-! DEFINITION. The statements for the provers, from the numbered rules of spec/. -/

open Sys2Proof Sys2Proof.Machine

/-! ## Encoding -/

/-- 30_encoding.md R91, R94: decoding the word of a command gives the command back, for every operand value. -/
def Obligations.DecodeGivesBackEveryEncodedCommand : Prop :=
  ∀ i : Instr, decode (encode i) = .ok i

/-- 30_encoding.md R91, R93: a legal word is the word of the command it stands for, so no two words mean the same. -/
def Obligations.EncodeGivesBackEveryLegalWord : Prop :=
  ∀ (w : Word) (i : Instr), decode w = .ok i → encode i = w

/-- 30_encoding.md R93: a word is legal iff exactly one row matches, that row is its command's own, and no word
matches two rows. -/
def Obligations.LegalWordsMatchExactlyOneRow : Prop :=
  ∀ w : Word,
    ((∃ i, decode w = .ok i) ↔ legalWord w = true) ∧
    (∀ i, decode w = .ok i → i.row ∈ rows ∧ i.row.hits w = true) ∧
    (∀ r ∈ rows, ∀ r' ∈ rows, r.hits w = true → r'.hits w = true → r = r')

/-- 30_encoding.md R94: the operands are the fields of the word, read as numbers, and a read count of zero selects the
write direction. -/
def Obligations.OperandsAreTheirFields : Prop :=
  ∀ (w : Word) (a : PeerAddr) (n : Count) (b : Byte),
    ((decode w = .ok (.start a n) ∨ decode w = .ok (.restart a n)) →
      a.toNat = w.toNat / 16 % 128 ∧ n.toNat = w.toNat / 65536 ∧ (isRead n = false ↔ w.toNat / 65536 = 0)) ∧
    (decode w = .ok (.write b) → b.toNat = w.toNat / 16 % 256)

/-- 30_encoding.md R96: which words are illegal, in terms of the number the word is. -/
def Obligations.IllegalWordsAreExactlyThese : Prop :=
  ∀ w : Word, (∃ e, decode w = .error e) ↔
    (w.toNat % 16 = 0 ∨ 8 ≤ w.toNat % 16) ∨
    ((w.toNat % 16 = 1 ∨ w.toNat % 16 = 5 ∨ w.toNat % 16 = 6 ∨ w.toNat % 16 = 7) ∧ w.toNat / 16 ≠ 0) ∨
    ((w.toNat % 16 = 2 ∨ w.toNat % 16 = 3) ∧ w.toNat / 2048 % 32 ≠ 0) ∨
    (w.toNat % 16 = 4 ∧ w.toNat / 4096 ≠ 0)

/-- 30_encoding.md R102: the example words decode to the commands they stand for. -/
def Obligations.ExampleWordsDecode : Prop :=
  decodeTableWord 32 0x00000001 = some .init ∧
  decodeTableWord 32 0x00000502 = some (.start 0x50#7 0#16) ∧
  decodeTableWord 32 0x00000104 = some (.write 0x10#8) ∧
  decodeTableWord 32 0x00020503 = some (.restart 0x50#7 2#16) ∧
  decodeTableWord 32 0x00000005 = some .read ∧
  decodeTableWord 32 0x00000006 = some .readlast ∧
  decodeTableWord 32 0x00000007 = some .stop ∧
  decodeTableWord 32 0xFFFF07F2 = some (.start 0x7F#7 65535#16) ∧
  decodeTableWord 32 0x00000FF4 = some (.write 0xFF#8) ∧
  decodeTableWord 32 0x00000008 = none ∧
  decodeTableWord 32 0x00000802 = none

/-- 30_encoding.md R100: in-range operands assemble to the words of the table, out-of-range ones are refused. -/
def Obligations.AssemblerWordsAndRanges : Prop :=
  ∀ a n b : Nat,
    (a < 128 → n < 65536 →
      (Source.toInstr (.start a n)).map encode = .ok (BitVec.ofNat 32 (n * 65536 + a * 16 + 2)) ∧
      (Source.toInstr (.restart a n)).map encode = .ok (BitVec.ofNat 32 (n * 65536 + a * 16 + 3))) ∧
    (b < 256 → (Source.toInstr (.write b)).map encode = .ok (BitVec.ofNat 32 (b * 16 + 4))) ∧
    ((128 ≤ a ∨ 65536 ≤ n) →
      Source.toInstr (.start a n) = .error .outOfRange ∧ Source.toInstr (.restart a n) = .error .outOfRange) ∧
    (256 ≤ b → Source.toInstr (.write b) = .error .outOfRange)

/-! ## Configuration and registers -/

/-- 10_state.md R48: the constant bytes of the default layout, which the spec marks as general knowledge (log 3). -/
def Obligations.StandardConstantBytes : Prop :=
  Layout.standard.ctrlaEnableMaster = 0x01#8 ∧ Layout.standard.statusForceIdle = 0x01#8 ∧
  Layout.standard.cmdPrime = 0x02#8 ∧ Layout.standard.cmdAckContinue = 0x02#8 ∧
  Layout.standard.cmdNack = 0x04#8 ∧ Layout.standard.cmdStop = 0x07#8

/-- 10_state.md R44: the predicates of a snapshot in the default layout, bit by bit; the spec marks the bit positions as
general knowledge (log 3). -/
def Obligations.StandardSnapshotPredicates : Prop :=
  ∀ f : StatusFields,
    rif Layout.standard f.byte = f.rif ∧ wif Layout.standard f.byte = f.wif ∧
    rxnack Layout.standard f.byte = f.rxack ∧ arblost Layout.standard f.byte = f.arblost ∧
    buserr Layout.standard f.byte = f.buserr ∧ busIdle Layout.standard f.byte = (f.busState == .idle)

/-- 10_state.md R46: the address byte of the default layout has the address in bits 7:1 and the direction in bit 0; the
spec marks these positions as general knowledge (log 3). -/
def Obligations.StandardAddressByte : Prop :=
  ∀ (a : PeerAddr) (read : Bool),
    (addressByte Layout.standard a read).toNat = 2 * a.toNat + (if read then 1 else 0)

/-- 40_initialize.md R122: BAUD_VALUE is the formula's value, and a value outside 0..255 is refused, not truncated. -/
def Obligations.DividerIsFormulaOrRefused : Prop :=
  ∀ coreHz busHz riseNs : Nat, 0 < coreHz → 0 < busHz →
    (0 ≤ dividerFormula coreHz busHz riseNs → dividerFormula coreHz busHz riseNs ≤ 255 →
      ∃ b, suggestedBaud coreHz busHz riseNs = some b ∧ (b.toNat : Int) = dividerFormula coreHz busHz riseNs) ∧
    ((dividerFormula coreHz busHz riseNs < 0 ∨ 255 < dividerFormula coreHz busHz riseNs) →
      ∀ base, configOfClock coreHz busHz riseNs base = none)

/-- 40_initialize.md R123: the worked values. -/
def Obligations.DividerWorkedValues : Prop :=
  suggestedBaud 20000000 400000 0 = some 20#8 ∧ suggestedBaud 20000000 400000 300 = some 17#8 ∧
  suggestedBaud 20000000 1000000 0 = some 5#8 ∧ suggestedBaud 16000000 400000 250 = some 13#8 ∧
  suggestedBaud 20000000 400000 250 = some 17#8 ∧ suggestedBaud 4000000 1000000 0 = none ∧
  dividerFormula 4000000 1000000 0 = -3

/-! ## State, response word and status word -/

/-- 70_reset_and_hazards.md R220: the state after reset. -/
def Obligations.ResetStateValues : Prop :=
  State.reset.prc = 0#16 ∧ State.reset.phase = .uninit ∧ State.reset.phase.code = 0#3 ∧
  State.reset.busy = false ∧ State.reset.cmd = 0x00000000#32 ∧ State.reset.resp = 0x00000000#32 ∧
  State.reset.respValid = false ∧ State.reset.fault = false ∧ State.reset.faultCause = .none ∧
  State.reset.faultCause.code = 0#4 ∧ State.reset.pollCnt = 0 ∧ State.reset.upc = .idle ∧
  blkStatus State.reset = 0x00000000#32

/-- 70_reset_and_hazards.md R221: reset sets every item in one step, undoes no access, gives no response, makes no
further access, and nothing else clears FAULT.  That a word on the port and the host's coming moves are kept over a reset
is the model's choice (log 5), and that the machine then stays as it is for ever is deduced (log 18). -/
def Obligations.ResetMoveRestoresEveryItem : Prop :=
  (∀ (s : State) (ms : List HostMove), s.host = .reset :: ms →
    step s = .next { s with
      prc := 0#16, phase := .uninit, busy := false, cmd := 0#32, resp := 0#32, respValid := false, fault := false,
      faultCause := .none, pollCnt := 0, upc := .idle, host := ms } ∧
    (ms = [] → s.port = none → ∀ t, step s = .next t → ∀ k, steps k t = .next t)) ∧
  (∀ s t : State, step s = .next t → s.fault = true → (t.fault = false ∨ t.faultCause ≠ s.faultCause) →
    ∃ ms, s.host = .reset :: ms)

/-- 10_state.md R34: the fields of BLK_STATUS; a read of it changes nothing, a write to it is ignored. -/
def Obligations.StatusWordFieldsAndAccess : Prop :=
  (∀ s : State,
    (blkStatus s).extractLsb' 0 3 = s.phase.code ∧ (blkStatus s).extractLsb' 3 1 = BitVec.ofBool s.busy ∧
    (blkStatus s).extractLsb' 4 1 = BitVec.ofBool s.fault ∧ (blkStatus s).extractLsb' 5 3 = 0#3 ∧
    (blkStatus s).extractLsb' 8 4 = s.faultCause.code ∧ (blkStatus s).extractLsb' 12 4 = 0#4 ∧
    (blkStatus s).extractLsb' 16 16 = s.prc) ∧
  blkStatus State.reset = 0x00000000#32 ∧
  (∀ (s : State) (ms : List HostMove), s.host = .readStatus :: ms →
    step s = .next { s with host := ms, given := .status (blkStatus s) :: s.given }) ∧
  (∀ (s : State) (ms : List HostMove) (w : Word), s.host = .writeStatus w :: ms →
    step s = .next { s with host := ms })

/-- 30_encoding.md R97, R98: the fields of a response word, and the codes of CAUSE. -/
def Obligations.ResponseWordFields : Prop :=
  (∀ r : Reply,
    r.word.extractLsb' 0 1 = BitVec.ofBool r.ok ∧ r.word.extractLsb' 1 3 = 0#3 ∧
    r.word.extractLsb' 4 4 = r.cause.code ∧ r.word.extractLsb' 8 8 = r.data ∧ r.word.extractLsb' 16 16 = 0#16) ∧
  (Reply.success 0x5A#8).word = 0x00005A01#32 ∧ (Reply.failure .arbitrationLost).word = 0x00000010#32 ∧
  (Reply.failure .busError).word = 0x00000020#32 ∧ (Reply.failure .addressNack).word = 0x00000030#32 ∧
  (Reply.failure .byteNack).word = 0x00000040#32 ∧ (Reply.failure .illegalCommand).word = 0x00000050#32 ∧
  (Reply.failure .timeout).word = 0x00000060#32

/-! ## Steps, acceptance and faults -/

/-- 60_exceptions.md R198, 10_state.md R29, R30: the block's step is `exec` of the command CMD stands for while BUSY, and of
the command the presented word stands for when the block may accept it.  When the block steps is the model's choice
(log 5): with no host move left, at a `pass`, which is all that a step adds around `exec`, and while an issue or a take
must wait. -/
def Obligations.StepRunsTheDecodedCommand : Prop :=
  ∀ (s s' : State) (i : Instr) (w : Word),
    (s.host = [] ∧ s' = s ∨
      (∃ ms, s.host = .pass :: ms ∧ s' = { s with host := ms }) ∨
      (∃ v ms, s.host = .issue v :: ms ∧ s.port.isSome = true ∧ s' = s) ∨
      (∃ ms, s.host = .take :: ms ∧ s.respValid = false ∧ s' = s)) →
    (s.busy = true → decode s.cmd = .ok i → step s = Sys2Proof.Machine.exec i s') ∧
    (s.busy = false → s.respValid = false → s.port = some w → decode w = .ok i →
      step s = Sys2Proof.Machine.exec i s')

/-- 60_exceptions.md R198, R200, R201, 10_state.md R28, R29: acceptance latches the word, makes no access, and leads to the
body when PHASE is in the command's row of R28 and to `raise Fault(PHASE_MISUSE)` when it is not; that step records the
fault unless one stands already, and leads to the same body.  That the two are two steps is read from R12 (log 6). -/
def Obligations.AcceptanceLatchesAndRecordsMisuse : Prop :=
  ∀ (i : Instr) (s : State),
    (∀ w, s.upc = .idle → s.port = some w → s.busy = false → s.respValid = false →
      ∃ t, Sys2Proof.Machine.exec i s = .next t ∧
        t.cmd = w ∧ t.busy = true ∧ t.port = none ∧ t.phase = s.phase ∧ t.prc = s.prc ∧
        t.trace = s.trace ∧ t.mem = s.mem ∧ t.answers = s.answers ∧ t.draws = s.draws ∧ t.resp = s.resp ∧
        t.respValid = false ∧ t.cfg = s.cfg ∧ t.host = s.host ∧ t.given = s.given ∧
        t.fault = s.fault ∧ t.faultCause = s.faultCause ∧
        t.upc = if s.phase ∈ phasesOf i then bodyEntry s.cfg i else .raise .phaseMisuse) ∧
    (∀ c, s.upc = .raise c →
      ∃ t, Sys2Proof.Machine.exec i s = .next t ∧
        t.fault = true ∧ t.faultCause = (if s.fault then s.faultCause else c) ∧ t.upc = bodyEntry s.cfg i ∧
        t.cmd = s.cmd ∧ t.busy = s.busy ∧ t.port = s.port ∧ t.phase = s.phase ∧ t.prc = s.prc ∧
        t.trace = s.trace ∧ t.mem = s.mem ∧ t.answers = s.answers ∧ t.draws = s.draws ∧ t.resp = s.resp ∧
        t.respValid = s.respValid ∧ t.cfg = s.cfg ∧ t.host = s.host ∧ t.given = s.given)

/-- 60_exceptions.md R199: an illegal word is accepted, recorded and answered with ILLEGAL_COMMAND, with no access and PRC
and PHASE unchanged.  The number of steps, three, is the model's (log 6, log 21). -/
def Obligations.IllegalWordIsRecordedAndAnswered : Prop :=
  ∀ (s : State) (w : Word) (e : Reject), s.host = [] → s.port = some w → s.busy = false → s.respValid = false →
    decode w = .error e →
    steps 3 s = .next { s with
      port := none, cmd := w, resp := 0x00000050#32, respValid := true, upc := .idle, fault := true,
      faultCause := if s.fault then s.faultCause else .illegalCommand }

/-- 60_exceptions.md R210: a word presented while the block is busy, or before the last response is taken, is not accepted:
the host goes on holding it, and the running command is unaffected.  That the host presents a word on a free port in a step
of its own is the model's choice (log 5), and that nothing at all changes while a response is pending is deduced
(log 18). -/
def Obligations.WordIsHeldUntilAccepted : Prop :=
  (∀ (s : State) (ms : List HostMove) (w : Word), s.host = .issue w :: ms → s.port = none →
    step s = .next { s with host := ms, port := some w }) ∧
  ∀ (s t : State) (w : Word), s.host = [] → s.port = some w → step s = .next t →
    (s.busy = true → t.port = some w ∧ t.cmd = s.cmd ∧
      ∀ (w' : Word) (u : State), step { s with port := some w' } = .next u → u = { t with port := some w' }) ∧
    (s.busy = false → s.respValid = true → t = s)

/-- 10_state.md R31, 60_exceptions.md R200: FAULT is sticky and FAULT_CAUSE keeps the first fault until a reset. -/
def Obligations.FaultIsStickyUntilReset : Prop :=
  (∀ s t : State, step s = .next t → (∀ ms, s.host ≠ .reset :: ms) → s.fault = true →
    t.fault = true ∧ t.faultCause = s.faultCause) ∧
  State.reset.fault = false ∧ State.reset.faultCause = .none

/-- 60_exceptions.md R202, R203: a fault is recorded only by the `raise Fault` step between the acceptance of a word and the
first step of the body (or the response of an illegal word), which makes no access and changes neither PRC nor PHASE;
PHASE_MISUSE only in a PHASE outside the command's row of R28.  That it is a step of its own is read from R12 (log 6). -/
def Obligations.FaultsAreRecordedBeforeTheBody : Prop :=
  (∀ s t : State, Inv s → step s = .next t → (∀ ms, s.host ≠ .reset :: ms) →
    (t.fault ≠ s.fault ∨ t.faultCause ≠ s.faultCause) →
    s.busy = true ∧ t.busy = true ∧ s.fault = false ∧ t.fault = true ∧ t.trace = s.trace ∧ t.mem = s.mem ∧
    t.phase = s.phase ∧ t.prc = s.prc ∧
    ((s.upc = .raise .phaseMisuse ∧ t.faultCause = .phaseMisuse ∧
        ∃ i, running s = some i ∧ s.phase ∉ phasesOf i ∧ t.upc = bodyEntry s.cfg i) ∨
      (s.upc = .raise .illegalCommand ∧ t.faultCause = .illegalCommand ∧ running s = none ∧
        t.upc = .respond (.failure .illegalCommand)))) ∧
  (∀ (s t : State) (c : FaultCause), Inv s → step s = .next t → t.upc = .raise c →
    s.upc = .raise c ∨ (s.busy = false ∧ s.port.isSome = true ∧ t.busy = true ∧ t.port = none))

/-- 60_exceptions.md R211: `respond` sets RESP and RESP_VALID and clears BUSY, for every command; a take clears
RESP_VALID and leaves RESP. -/
def Obligations.RespondAndTake : Prop :=
  (∀ (i : Instr) (s : State) (r : Reply), s.upc = .respond r →
    Sys2Proof.Machine.exec i s = .next { s with resp := r.word, respValid := true, busy := false, upc := .idle }) ∧
  (∀ (s : State) (ms : List HostMove), s.host = .take :: ms → s.respValid = true →
    step s = .next { s with host := ms, respValid := false, given := .response s.resp :: s.given })

/-! ## Each command, line by line: what `exec` answers -/

/-- 40_initialize.md R120: the lines of INIT's body.
Which lines are steps of their own is log 9's. -/
def Obligations.InitLines : Prop :=
  ∀ s : State,
    (s.upc = .line .pinSda → Sys2Proof.Machine.exec .init s = .next { s with
      upc := .line .pinScl, trace := .pin .sda .inputPullup :: s.trace }) ∧
    (s.upc = .line .pinScl → Sys2Proof.Machine.exec .init s = .next { s with
      upc := .line .wrBaud, trace := .pin .scl .inputPullup :: s.trace }) ∧
    (s.upc = .line .wrBaud → Sys2Proof.Machine.exec .init s = .next { s with
      upc := .line .wrCtrla
      mem := Memory.set s.mem (regAddr s.cfg .baud) s.cfg.baudValue
      trace := .write .baud s.cfg.baudValue :: s.trace }) ∧
    (s.upc = .line .wrCtrla → Sys2Proof.Machine.exec .init s = .next { s with
      upc := .line .wrStatus
      mem := Memory.set s.mem (regAddr s.cfg .ctrla) s.cfg.layout.ctrlaEnableMaster
      trace := .write .ctrla s.cfg.layout.ctrlaEnableMaster :: s.trace }) ∧
    (s.upc = .line .wrStatus → Sys2Proof.Machine.exec .init s = .next { s with
      upc := .setPhase .idle (.success 0#8)
      mem := Memory.set s.mem (regAddr s.cfg .status) s.cfg.layout.statusForceIdle
      trace := .write .status s.cfg.layout.statusForceIdle :: s.trace }) ∧
    (∀ p r, s.upc = .setPhase p r → Sys2Proof.Machine.exec .init s = .next { s with
      phase := p, upc := .respond r })

/-- 41_start_restart.md R130, R140: the lines of the body of START and RESTART, except the poll loops.
Which lines are steps of their own is log 9's. -/
def Obligations.StartAndRestartLines : Prop :=
  ∀ (i : Instr) (a : PeerAddr) (n : Count) (s : State), (i = .start a n ∨ i = .restart a n) →
    (s.upc = .line .setPrc → Sys2Proof.Machine.exec i s = .next { s with
      upc := .line .addressing, prc := if n = 0#16 then s.prc else n }) ∧
    (s.upc = .line .addressing → Sys2Proof.Machine.exec i s = .next { s with
      upc := .line .wrAddr, phase := .addressing }) ∧
    (s.upc = .line .wrAddr → Sys2Proof.Machine.exec i s = .next { s with
      upc := .poll .addrDone
      pollCnt := if s.cfg.pollLimit = none then s.pollCnt else 0
      mem := Memory.set s.mem (regAddr s.cfg .addr) (addressByte s.cfg.layout a (isRead n))
      trace := .write .addr (addressByte s.cfg.layout a (isRead n)) :: s.trace }) ∧
    (s.upc = .line .rdS1 → ∃ t, Sys2Proof.Machine.exec i s = .next t ∧
      t.trace = .read .status s.answer :: s.trace ∧ t.answers = s.answers.tail ∧ t.draws = s.draws + 1 ∧
      t.mem = s.mem ∧ t.prc = s.prc ∧ t.phase = s.phase ∧
      t.upc =
        if arblost s.cfg.layout s.answer || buserr s.cfg.layout s.answer then
          (if s.cfg.busIdleWait then
            .poll (.busIdle (.failure (if arblost s.cfg.layout s.answer then .arbitrationLost else .busError)))
          else .setPhase .unsettled
            (.failure (if arblost s.cfg.layout s.answer then .arbitrationLost else .busError)))
        else .line .rdS2) ∧
    (s.upc = .line .rdS2 → ∃ t, Sys2Proof.Machine.exec i s = .next t ∧
      t.trace = .read .status s.answer :: s.trace ∧ t.answers = s.answers.tail ∧ t.draws = s.draws + 1 ∧
      t.mem = s.mem ∧ t.prc = s.prc ∧ t.phase = s.phase ∧
      t.upc =
        if rxnack s.cfg.layout s.answer then
          (if s.cfg.busIdleWait then .line (.wrStop (.failure .addressNack))
          else .setPhase .unsettled (.failure .addressNack))
        else .setPhase (if n = 0#16 then .writing else .reading) (.success 0#8)) ∧
    (∀ r, s.upc = .line (.wrStop r) → Sys2Proof.Machine.exec i s = .next { s with
      upc := .poll (.busIdle r)
      pollCnt := if s.cfg.pollLimit = none then s.pollCnt else 0
      mem := Memory.set s.mem (regAddr s.cfg .ctrlb) s.cfg.layout.cmdStop
      trace := .write .ctrlb s.cfg.layout.cmdStop :: s.trace }) ∧
    (∀ p r, s.upc = .setPhase p r → Sys2Proof.Machine.exec i s = .next { s with
      phase := p, upc := .respond r })

/-- 42_byte_transfer.md R152, R153: the lines of WRITE's body in both variants, except the poll loop.
Which lines are steps of their own is log 9's. -/
def Obligations.WriteLines : Prop :=
  ∀ (b : Byte) (s : State),
    (s.upc = .line .wrPrime → Sys2Proof.Machine.exec (.write b) s = .next { s with
      upc := match s.cfg.writeVariant with | .b => .line .wrData | .a => .line .rdS1
      mem := Memory.set s.mem (regAddr s.cfg .ctrlb) s.cfg.layout.cmdPrime
      trace := .write .ctrlb s.cfg.layout.cmdPrime :: s.trace }) ∧
    (s.upc = .line .wrData → Sys2Proof.Machine.exec (.write b) s = .next { s with
      upc := match s.cfg.writeVariant with | .b => .poll .wif | .a => .line .wrPrime
      pollCnt := if s.cfg.writeVariant = .b ∧ s.cfg.pollLimit ≠ none then 0 else s.pollCnt
      mem := Memory.set s.mem (regAddr s.cfg .data) b
      trace := .write .data b :: s.trace }) ∧
    (s.upc = .line .rdS1 → ∃ t, Sys2Proof.Machine.exec (.write b) s = .next t ∧
      t.trace = .read .status s.answer :: s.trace ∧ t.answers = s.answers.tail ∧ t.mem = s.mem ∧ t.prc = s.prc ∧
      t.phase = s.phase ∧
      t.upc =
        match s.cfg.writeVariant with
        | .b =>
          if arblost s.cfg.layout s.answer then .setPhase .unsettled (.failure .arbitrationLost)
          else if buserr s.cfg.layout s.answer then .setPhase .unsettled (.failure .busError)
          else .line .rdS2
        | .a =>
          if rxnack s.cfg.layout s.answer then .respond (.failure .byteNack) else .respond (.success 0#8)) ∧
    (s.upc = .line .rdS2 → s.cfg.writeVariant = .b → ∃ t, Sys2Proof.Machine.exec (.write b) s = .next t ∧
      t.trace = .read .status s.answer :: s.trace ∧ t.answers = s.answers.tail ∧ t.mem = s.mem ∧ t.prc = s.prc ∧
      t.phase = s.phase ∧
      t.upc =
        if rxnack s.cfg.layout s.answer then .respond (.failure .byteNack) else .respond (.success 0#8)) ∧
    (∀ p r, s.upc = .setPhase p r → Sys2Proof.Machine.exec (.write b) s = .next { s with
      phase := p, upc := .respond r })

/-- 42_byte_transfer.md R160, R170: the lines of READ and READLAST, except the poll loop: the count, the capture of the
byte, and the acknowledge, which READ decides by PRC after the decrement (R161).
Which lines are steps of their own is log 9's. -/
def Obligations.ReadAndReadlastLines : Prop :=
  ∀ s : State,
    (s.upc = .line .takeCount →
      Sys2Proof.Machine.exec .read s = .next { s with
        upc := .poll .rif
        pollCnt := if s.cfg.pollLimit = none then s.pollCnt else 0
        prc := if s.prc = 0#16 then 0#16 else s.prc - 1#16 } ∧
      Sys2Proof.Machine.exec .readlast s = .next { s with
        upc := .poll .rif
        pollCnt := if s.cfg.pollLimit = none then s.pollCnt else 0
        prc := 0#16 }) ∧
    (∀ i, (i = .read ∨ i = .readlast) → s.upc = .line .rdData → Sys2Proof.Machine.exec i s = .next { s with
      upc := .line (.wrAck s.answer)
      answers := s.answers.tail
      draws := s.draws + 1
      trace := .read .data s.answer :: s.trace }) ∧
    (∀ d, s.upc = .line (.wrAck d) → s.prc ≠ 0#16 → Sys2Proof.Machine.exec .read s = .next { s with
      upc := .respond (.success d)
      mem := Memory.set s.mem (regAddr s.cfg .ctrlb) s.cfg.layout.cmdAckContinue
      trace := .write .ctrlb s.cfg.layout.cmdAckContinue :: s.trace }) ∧
    (∀ i d, (i = .read ∧ s.prc = 0#16 ∨ i = .readlast) → s.upc = .line (.wrAck d) →
      Sys2Proof.Machine.exec i s = .next { s with
        upc := .setPhase .readEnded (.success d)
        mem := Memory.set s.mem (regAddr s.cfg .ctrlb) s.cfg.layout.cmdNack
        trace := .write .ctrlb s.cfg.layout.cmdNack :: s.trace }) ∧
    (∀ i p r, (i = .read ∨ i = .readlast) → s.upc = .setPhase p r →
      Sys2Proof.Machine.exec i s = .next { s with phase := p, upc := .respond r })

/-- 43_stop.md R180: the lines of STOP, except the poll loop, in both designs.
Which lines are steps of their own is log 9's. -/
def Obligations.StopLines : Prop :=
  ∀ s : State,
    (∀ r, s.upc = .line (.wrStop r) → Sys2Proof.Machine.exec .stop s = .next { s with
      upc := if s.cfg.busIdleWait then .poll (.busIdle r) else .setPhase .idle r
      pollCnt := if s.cfg.busIdleWait = true ∧ s.cfg.pollLimit ≠ none then 0 else s.pollCnt
      mem := Memory.set s.mem (regAddr s.cfg .ctrlb) s.cfg.layout.cmdStop
      trace := .write .ctrlb s.cfg.layout.cmdStop :: s.trace }) ∧
    (∀ p r, s.upc = .setPhase p r → Sys2Proof.Machine.exec .stop s = .next { s with
      phase := p, upc := .respond r })

/-- 00_scope.md R12, 20_memory.md R63: one turn of a poll loop of any command is one fresh read of STATUS, and the loop
ends exactly when that snapshot satisfies the predicate.  The next state is given in full: beside the read, its answer and
the place in the command only POLL_CNT moves, and only under a finite limit (log 7). -/
def Obligations.PollTurnReadsStatusAfresh : Prop :=
  ∀ (i : Instr) (w : Wait) (u : Upc) (s : State), s.upc = .poll w → afterPoll i s.cfg w = some u →
    s.cfg.pollLimit ≠ some s.pollCnt →
    Sys2Proof.Machine.exec i s = .next { s with
      upc := if waitHolds s.cfg.layout w s.answer then u else .poll w
      pollCnt := if s.cfg.pollLimit = none then s.pollCnt else s.pollCnt + 1
      answers := s.answers.tail
      draws := s.draws + 1
      trace := .read .status s.answer :: s.trace }

/-- 41_start_restart.md R140, R141: a step of RESTART is a step of START with the same operands, in every state. -/
def Obligations.RestartStepsAsStart : Prop :=
  ∀ (a : PeerAddr) (n : Count) (s : State),
    Sys2Proof.Machine.exec (.restart a n) s = Sys2Proof.Machine.exec (.start a n) s

/-! ## Whole commands: accesses in order, response, PHASE and PRC -/

/-- 40_initialize.md R120: the whole INIT, from any PHASE.
The number of steps, one more out of phase, is the model's (log 6, log 21). -/
def Obligations.InitRunsToCompletion : Prop :=
  ∀ s : State, Presented .init s →
    CompletesIn 8 .init s (.success 0#8) .idle s.prc
      [.pin .sda .inputPullup, .pin .scl .inputPullup, .write .baud s.cfg.baudValue,
       .write .ctrla s.cfg.layout.ctrlaEnableMaster, .write .status s.cfg.layout.statusForceIdle]

/-- 41_start_restart.md R134, R135: START and RESTART on an acknowledged address open the transaction, with the accesses
of R135, however long the poll waits.
The number of steps, one more out of phase, is the model's (log 6, log 21). -/
def Obligations.StartOpensTheTransaction : Prop :=
  ∀ (i : Instr) (a : PeerAddr) (n : Count) (s : State) (waits : List Byte) (g s1 s2 : Byte),
    (i = .start a n ∨ i = .restart a n) → Presented i s →
    NextAnswers s (waits ++ [g, s1, s2]) → PollEnds s.cfg .addrDone waits g → LimitAllows s.cfg waits.length →
    arblost s.cfg.layout s1 = false → buserr s.cfg.layout s1 = false → rxnack s.cfg.layout s2 = false →
    CompletesIn (waits.length + 9) i s (.success 0#8) (if n = 0#16 then .writing else .reading)
      (if n = 0#16 then s.prc else n)
      (.write .addr (addressByte s.cfg.layout a (isRead n)) :: statusReads (waits ++ [g, s1, s2]))

/-- 41_start_restart.md R132: START and RESTART on an error flag in s1: the newer design polls until bus idle and ends
in IDLE, the older design makes no further access and ends in UNSETTLED; ARBITRATION_LOST wins.
The number of steps, one more out of phase, is the model's (log 6, log 21). -/
def Obligations.StartReportsArbitrationLossOrBusError : Prop :=
  ∀ (i : Instr) (a : PeerAddr) (n : Count) (s : State) (waits : List Byte) (g s1 : Byte),
    (i = .start a n ∨ i = .restart a n) → Presented i s →
    NextAnswers s (waits ++ [g, s1]) → PollEnds s.cfg .addrDone waits g →
    LimitAllows s.cfg waits.length → (arblost s.cfg.layout s1 = true ∨ buserr s.cfg.layout s1 = true) →
    (s.cfg.busIdleWait = true → ∀ (idles : List Byte) (z : Byte),
      NextAnswers s (waits ++ g :: s1 :: (idles ++ [z])) →
      (∀ b ∈ idles, busIdle s.cfg.layout b = false) → busIdle s.cfg.layout z = true → LimitAllows s.cfg idles.length →
      CompletesIn (waits.length + idles.length + 9) i s
        (.failure (if arblost s.cfg.layout s1 then .arbitrationLost else .busError)) .idle
        (if n = 0#16 then s.prc else n)
        (.write .addr (addressByte s.cfg.layout a (isRead n)) :: statusReads (waits ++ g :: s1 :: (idles ++ [z])))) ∧
    (s.cfg.busIdleWait = false →
      CompletesIn (waits.length + 8) i s
        (.failure (if arblost s.cfg.layout s1 then .arbitrationLost else .busError)) .unsettled
        (if n = 0#16 then s.prc else n)
        (.write .addr (addressByte s.cfg.layout a (isRead n)) :: statusReads (waits ++ [g, s1])))

/-- 41_start_restart.md R133: START and RESTART on a NACK in s2: the newer design writes CMD_STOP, polls until bus idle
and ends in IDLE, the older design makes no further access and ends in UNSETTLED.
The number of steps, one more out of phase, is the model's (log 6, log 21). -/
def Obligations.StartReportsAddressNack : Prop :=
  ∀ (i : Instr) (a : PeerAddr) (n : Count) (s : State) (waits : List Byte) (g s1 s2 : Byte),
    (i = .start a n ∨ i = .restart a n) → Presented i s →
    NextAnswers s (waits ++ [g, s1, s2]) → PollEnds s.cfg .addrDone waits g →
    LimitAllows s.cfg waits.length → arblost s.cfg.layout s1 = false → buserr s.cfg.layout s1 = false →
    rxnack s.cfg.layout s2 = true →
    (s.cfg.busIdleWait = true → ∀ (idles : List Byte) (z : Byte),
      NextAnswers s (waits ++ g :: s1 :: s2 :: (idles ++ [z])) →
      (∀ b ∈ idles, busIdle s.cfg.layout b = false) → busIdle s.cfg.layout z = true → LimitAllows s.cfg idles.length →
      CompletesIn (waits.length + idles.length + 11) i s (.failure .addressNack) .idle
        (if n = 0#16 then s.prc else n)
        (.write .addr (addressByte s.cfg.layout a (isRead n)) ::
          (statusReads (waits ++ [g, s1, s2]) ++ .write .ctrlb s.cfg.layout.cmdStop :: statusReads (idles ++ [z])))) ∧
    (s.cfg.busIdleWait = false →
      CompletesIn (waits.length + 9) i s (.failure .addressNack) .unsettled
        (if n = 0#16 then s.prc else n)
        (.write .addr (addressByte s.cfg.layout a (isRead n)) :: statusReads (waits ++ [g, s1, s2])))

/-- 42_byte_transfer.md R152: WRITE, variant B: prime, load, wait, check errors on s1, check acknowledge on s2.
The number of steps, one more out of phase, is the model's (log 6, log 21). -/
def Obligations.WriteVariantBRuns : Prop :=
  ∀ (b : Byte) (s : State) (waits : List Byte) (g s1 : Byte),
    s.cfg.writeVariant = .b → Presented (.write b) s → NextAnswers s (waits ++ [g, s1]) →
    PollEnds s.cfg .wif waits g → LimitAllows s.cfg waits.length →
    ((arblost s.cfg.layout s1 = true ∨ buserr s.cfg.layout s1 = true) →
      CompletesIn (waits.length + 7) (.write b) s
        (.failure (if arblost s.cfg.layout s1 then .arbitrationLost else .busError)) .unsettled s.prc
        (.write .ctrlb s.cfg.layout.cmdPrime :: .write .data b :: statusReads (waits ++ [g, s1]))) ∧
    (∀ s2 : Byte, NextAnswers s (waits ++ [g, s1, s2]) →
      arblost s.cfg.layout s1 = false → buserr s.cfg.layout s1 = false →
      CompletesIn (waits.length + 7) (.write b) s
        (if rxnack s.cfg.layout s2 then .failure .byteNack else .success 0#8) s.phase s.prc
        (.write .ctrlb s.cfg.layout.cmdPrime :: .write .data b :: statusReads (waits ++ [g, s1, s2])))

/-- 42_byte_transfer.md R153: WRITE, variant A: wait, load, prime, check acknowledge; no error flag is tested.
The number of steps, one more out of phase, is the model's (log 6, log 21). -/
def Obligations.WriteVariantARuns : Prop :=
  ∀ (b : Byte) (s : State) (waits : List Byte) (g s1 : Byte),
    s.cfg.writeVariant = .a → Presented (.write b) s → NextAnswers s (waits ++ [g, s1]) →
    PollEnds s.cfg .wif waits g → LimitAllows s.cfg waits.length →
    CompletesIn (waits.length + 6) (.write b) s
      (if rxnack s.cfg.layout s1 then .failure .byteNack else .success 0#8) s.phase s.prc
      (statusReads (waits ++ [g]) ++
        [.write .data b, .write .ctrlb s.cfg.layout.cmdPrime, .read .status s1])

/-- 42_byte_transfer.md R160, R161: READ decrements PRC, takes the byte, and ACKs it exactly when PRC is nonzero after
the decrement; the final byte is NACKed and ends in READ_ENDED.
The number of steps, one more out of phase, is the model's (log 6, log 21). -/
def Obligations.ReadRunsAndDecidesTheAcknowledge : Prop :=
  ∀ (s : State) (waits : List Byte) (g d : Byte), Presented .read s →
    NextAnswers s (waits ++ [g, d]) → PollEnds s.cfg .rif waits g → LimitAllows s.cfg waits.length →
    (1 < s.prc.toNat →
      CompletesIn (waits.length + 6) .read s (.success d) s.phase (BitVec.ofNat 16 (s.prc.toNat - 1))
        (statusReads (waits ++ [g]) ++ [.read .data d, .write .ctrlb s.cfg.layout.cmdAckContinue])) ∧
    (s.prc.toNat ≤ 1 →
      CompletesIn (waits.length + 7) .read s (.success d) .readEnded 0#16
        (statusReads (waits ++ [g]) ++ [.read .data d, .write .ctrlb s.cfg.layout.cmdNack]))

/-- 42_byte_transfer.md R170: READLAST sets PRC to 0, takes the byte, NACKs it and ends in READ_ENDED.
The number of steps, one more out of phase, is the model's (log 6, log 21). -/
def Obligations.ReadlastRunsAndNacks : Prop :=
  ∀ (s : State) (waits : List Byte) (g d : Byte), Presented .readlast s →
    NextAnswers s (waits ++ [g, d]) → PollEnds s.cfg .rif waits g → LimitAllows s.cfg waits.length →
    CompletesIn (waits.length + 7) .readlast s (.success d) .readEnded 0#16
      (statusReads (waits ++ [g]) ++ [.read .data d, .write .ctrlb s.cfg.layout.cmdNack])

/-- 43_stop.md R180, R182, R183: STOP writes CMD_STOP; the newer design polls until bus idle, the older makes no other
access; both end in IDLE with PRC unchanged.
The number of steps, one more out of phase, is the model's (log 6, log 21). -/
def Obligations.StopRunsInBothDesigns : Prop :=
  ∀ s : State, Presented .stop s →
    (s.cfg.busIdleWait = true → ∀ (idles : List Byte) (z : Byte), NextAnswers s (idles ++ [z]) →
      (∀ b ∈ idles, busIdle s.cfg.layout b = false) → busIdle s.cfg.layout z = true → LimitAllows s.cfg idles.length →
      CompletesIn (idles.length + 5) .stop s (.success 0#8) .idle s.prc
        (.write .ctrlb s.cfg.layout.cmdStop :: statusReads (idles ++ [z]))) ∧
    (s.cfg.busIdleWait = false →
      CompletesIn 4 .stop s (.success 0#8) .idle s.prc [.write .ctrlb s.cfg.layout.cmdStop])

/-! ## Poll loops that do not end -/

/-- 60_exceptions.md R197: with POLL_LIMIT = L a poll makes at most L status reads; after L failing ones the command
ends with TIMEOUT, no further access, PHASE = UNSETTLED and PRC unchanged.  With INF no turn of a poll times out.
That the PHASE update and the response are two steps is the model's (log 8). -/
def Obligations.FinitePollTimesOut : Prop :=
  ∀ (i : Instr) (w : Wait) (u : Upc) (s : State), s.host = [] → s.busy = true → decode s.cmd = .ok i →
    s.upc = .poll w → afterPoll i s.cfg w = some u →
    (∀ fails : List Byte, s.cfg.pollLimit = some fails.length → s.pollCnt = 0 → NextAnswers s fails →
      (∀ b ∈ fails, waitHolds s.cfg.layout w b = false) →
      steps (fails.length + 2) s = .next { s with
        phase := .unsettled, busy := false, upc := .idle, resp := 0x00000060#32, respValid := true
        pollCnt := fails.length
        answers := s.answers.drop fails.length
        draws := s.draws + fails.length
        trace := (statusReads fails).reverse ++ s.trace }) ∧
    (s.cfg.pollLimit = none → ∀ t, step s = .next t →
      t.trace = .read .status s.answer :: s.trace ∧ t.pollCnt = s.pollCnt ∧ t.phase = s.phase)

/-- 10_state.md R32: POLL_CNT becomes 0 on entry to a poll loop, counts each of its reads, does not move without a limit,
and is not visible in BLK_STATUS or in a response.
That POLL_CNT moves in these steps is the model's (log 7). -/
def Obligations.PollCountCounts : Prop :=
  (∀ (s t : State) (w : Wait) (l : Nat), step s = .next t → s.cfg.pollLimit = some l → s.upc ≠ .poll w →
    t.upc = .poll w → t.pollCnt = 0) ∧
  (∀ (s t : State) (w : Wait) (l : Nat) (b : Byte), step s = .next t → s.cfg.pollLimit = some l → s.upc = .poll w →
    t.trace = .read .status b :: s.trace → t.pollCnt = s.pollCnt + 1) ∧
  (∀ s t : State, step s = .next t → s.cfg.pollLimit = none → (∀ ms, s.host ≠ .reset :: ms) →
    t.pollCnt = s.pollCnt) ∧
  (∀ (s : State) (n : Nat) (r : Reply), blkStatus { s with pollCnt := n } = blkStatus s ∧
    (respond r { s with pollCnt := n }).resp = (respond r s).resp)

/-- 60_exceptions.md R196: with POLL_LIMIT = INF a poll whose flag is never read set goes on for ever: the block stays
BUSY, gives no response and makes one status read a step. -/
def Obligations.UnboundedPollCanHang : Prop :=
  ∀ (i : Instr) (w : Wait) (u : Upc) (s : State), s.host = [] → s.busy = true → decode s.cmd = .ok i →
    s.upc = .poll w → afterPoll i s.cfg w = some u → s.cfg.pollLimit = none →
    NeverReads (waitHolds s.cfg.layout w) s →
    ∀ k, ∃ t, steps k s = .next t ∧ t.busy = true ∧ t.upc = .poll w ∧ t.resp = s.resp ∧ t.respValid = s.respValid ∧
      t.phase = s.phase ∧ t.prc = s.prc ∧ t.mem = s.mem ∧ t.trace.length = s.trace.length + k

/-- 20_memory.md R83: a poll whose flag is eventually read set leaves its loop, by that read at the latest.
The number of steps is the model's (log 21). -/
def Obligations.PollLeavesWhenTheFlagComes : Prop :=
  ∀ (i : Instr) (w : Wait) (u : Upc) (s : State) (k : Nat), s.host = [] → s.busy = true → decode s.cmd = .ok i →
    s.upc = .poll w → afterPoll i s.cfg w = some u → s.cfg.pollLimit = none →
    waitHolds s.cfg.layout w (s.nthAnswer k) = true →
    ∃ j, j ≤ k ∧ ∃ t, steps (j + 1) s = .next t ∧ t.upc = u ∧ t.trace.length = s.trace.length + j + 1

/-! ## Frames and accesses -/

/-- 20_memory.md R66, R68, R70: a step makes at most one access or pin request; a write stores its byte at its
register's address; a read is of STATUS or DATA and uses up exactly one answer. -/
def Obligations.StepMakesAtMostOneAccess : Prop :=
  ∀ s t : State, step s = .next t →
    (t.trace = s.trace ∧ t.mem = s.mem ∧ t.answers = s.answers ∧ t.draws = s.draws) ∨
    (∃ p, t.trace = .pin p .inputPullup :: s.trace ∧ t.mem = s.mem ∧ t.answers = s.answers ∧ t.draws = s.draws) ∨
    (∃ r v, t.trace = .write r v :: s.trace ∧ t.mem = Memory.set s.mem (regAddr s.cfg r) v ∧
      t.answers = s.answers ∧ t.draws = s.draws) ∨
    (∃ r, (r = .status ∨ r = .data) ∧ t.trace = .read r s.answer :: s.trace ∧ t.mem = s.mem ∧
      t.answers = s.answers.tail ∧ t.draws = s.draws + 1)

/-- 10_state.md R20, R29: what a step of any command leaves unchanged outside PRC, PHASE and memory. -/
def Obligations.CommandInterfaceFrame : Prop :=
  ∀ (i : Instr) (s t : State), Sys2Proof.Machine.exec i s = .next t →
    t.cfg = s.cfg ∧ t.host = s.host ∧ t.given = s.given ∧
    (s.upc ≠ .idle → t.cmd = s.cmd ∧ t.port = s.port) ∧
    ((∀ c, s.upc ≠ .raise c) → t.fault = s.fault ∧ t.faultCause = s.faultCause) ∧
    ((∀ r, s.upc ≠ .respond r) → t.resp = s.resp ∧ t.respValid = s.respValid) ∧
    (s.upc ≠ .idle → (∀ r, s.upc ≠ .respond r) → t.busy = s.busy) ∧
    (s.cfg.pollLimit = none → t.pollCnt = s.pollCnt)

/-- 10_state.md R22, R27: which steps of which command leave PRC and PHASE unchanged. -/
def Obligations.CountAndPhaseFrame : Prop :=
  ∀ (i : Instr) (s t : State), Sys2Proof.Machine.exec i s = .next t →
    ((i = .init ∨ (∃ b, i = .write b) ∨ i = .stop) → t.prc = s.prc) ∧
    ((∃ a n, (i = .start a n ∨ i = .restart a n) ∧ (s.upc ≠ .line .setPrc ∨ n = 0#16)) → t.prc = s.prc) ∧
    ((i = .read ∨ i = .readlast) → s.upc ≠ .line .takeCount → t.prc = s.prc) ∧
    (t.phase = s.phase ∨ (∃ p r, s.upc = .setPhase p r ∧ t.phase = p) ∨
      (s.upc = .line .addressing ∧ t.phase = .addressing) ∨
      (∃ w, s.upc = .poll w ∧ s.cfg.pollLimit = some s.pollCnt ∧ t.phase = .unsettled))

/-- 20_memory.md R60, R65: a step of any command changes no byte of the register space but the one register its line
stores to, at the address the line computes. -/
def Obligations.MemoryFrame : Prop :=
  ∀ (i : Instr) (s t : State) (a : Nat), Sys2Proof.Machine.exec i s = .next t →
    ((∀ r, storesTo s.upc = some r → a ≠ regAddr s.cfg r) → Memory.get? t.mem a = Memory.get? s.mem a) ∧
    (∀ r, storesTo s.upc = some r →
      ∃ v, t.trace = .write r v :: s.trace ∧ Memory.get? t.mem (regAddr s.cfg r) = some v)

/-- 10_state.md R40, R41, R45-R48: which command writes and reads which register, and with which byte. -/
def Obligations.RegistersHaveTheirWriters : Prop :=
  ∀ s t : State, Inv s → step s = .next t →
    (∀ r v, t.trace = .write r v :: s.trace → ∃ i, running s = some i ∧
      match r with
      | .baud => i = .init ∧ v = s.cfg.baudValue
      | .ctrla => i = .init ∧ v = s.cfg.layout.ctrlaEnableMaster
      | .status => i = .init ∧ v = s.cfg.layout.statusForceIdle
      | .ctrlb =>
        ((∃ b, i = .write b) ∧ v = s.cfg.layout.cmdPrime) ∨
        (i = .read ∧ v = (if s.prc = 0#16 then s.cfg.layout.cmdNack else s.cfg.layout.cmdAckContinue)) ∨
        (i = .readlast ∧ v = s.cfg.layout.cmdNack) ∨
        (((∃ a n, i = .start a n ∨ i = .restart a n) ∨ i = .stop) ∧ v = s.cfg.layout.cmdStop)
      | .addr => ∃ a n, (i = .start a n ∨ i = .restart a n) ∧ v = addressByte s.cfg.layout a (isRead n)
      | .data => i = .write v) ∧
    (∀ r v, t.trace = .read r v :: s.trace → ∃ i, running s = some i ∧ i ≠ .init ∧
      (r = .status ∨ (r = .data ∧ (i = .read ∨ i = .readlast))))

/-- 40_initialize.md R125: INIT writes no interrupt enable, and no other command writes CTRLA; the enable bits' places
are those of the default layout, which the spec marks as general knowledge (log 3). -/
def Obligations.NoInterruptIsEverEnabled : Prop :=
  ∀ (s t : State) (v : Byte), Inv s → s.cfg.layout = Layout.standard → step s = .next t →
    t.trace = .write .ctrla v :: s.trace →
    running s = some .init ∧ v.getLsbD 7 = false ∧ v.getLsbD 6 = false

/-- 10_state.md R22: PRC starts at 0, and its only writes are those of START and RESTART with a nonzero read count, READ's
decrement, which never wraps, and READLAST's zero; and these commands do make them. -/
def Obligations.CountHasExactlyFourWrites : Prop :=
  State.reset.prc = 0#16 ∧
  (∀ (i : Instr) (a : PeerAddr) (n : Count) (s : State), (i = .start a n ∨ i = .restart a n) →
    s.upc = .line .setPrc →
    ∃ t, Sys2Proof.Machine.exec i s = .next t ∧ t.prc = if n = 0#16 then s.prc else n) ∧
  (∀ s : State, s.upc = .line .takeCount →
    (∃ t, Sys2Proof.Machine.exec .read s = .next t ∧ t.prc.toNat = s.prc.toNat - 1) ∧
    (∃ t, Sys2Proof.Machine.exec .readlast s = .next t ∧ t.prc = 0#16)) ∧
  ∀ s t : State, Inv s → step s = .next t → (∀ ms, s.host ≠ .reset :: ms) → t.prc ≠ s.prc →
    (∃ a n, (running s = some (.start a n) ∨ running s = some (.restart a n)) ∧ n ≠ 0#16 ∧ t.prc = n) ∨
    (running s = some .read ∧ 0 < s.prc.toNat ∧ t.prc.toNat = s.prc.toNat - 1) ∨
    (running s = some .readlast ∧ t.prc = 0#16)

/-! ## Invariants and whole-machine rules -/

/-- The reset state meets both invariants. -/
def Obligations.ResetMeetsTheInvariants : Prop := Inv State.reset ∧ CountInv State.reset

/-- Every step keeps the block's invariant, from every state that meets it. -/
def Obligations.StepKeepsTheInvariant : Prop := ∀ s t : State, Inv s → step s = .next t → Inv t

/-- 10_state.md R22, R23, R25: every step keeps what PRC and PHASE say of each other: between commands PRC is nonzero in
READING and zero in READ_ENDED. -/
def Obligations.StepKeepsCountAndPhaseInStep : Prop :=
  (∀ s t : State, Inv s → CountInv s → step s = .next t → CountInv t) ∧
  (∀ s : State, Inv s → CountInv s → s.busy = false →
    (s.phase = .reading → s.prc ≠ 0#16) ∧ (s.phase = .readEnded → s.prc = 0#16) ∧ s.phase ≠ .addressing)

/-- A state that meets the invariant always has a next state: the block neither faults nor refuses.  It proves what log 12
says, that no run reaches `strayLine`. -/
def Obligations.InvariantStatesNeverStop : Prop := ∀ s : State, Inv s → ∃ t, step s = .next t

/-- 30_encoding.md R99: the response a command ends with is one of its row, OK exactly when CAUSE is NONE, and DATA is 0
but for READ and READLAST. -/
def Obligations.ResponsesFollowTheTable : Prop :=
  ∀ s t : State, Inv s → step s = .next t → (∀ ms, s.host ≠ .reset :: ms) → s.busy = true → t.busy = false →
    ∃ r, t.resp = r.word ∧ t.respValid = true ∧ (r.ok = true ↔ r.cause = .none) ∧
      ((∃ i, running s = some i ∧ replyAllowed s.cfg i r = true ∧
        (r.data ≠ 0#8 → i = .read ∨ i = .readlast)) ∨
       (running s = none ∧ r = .failure .illegalCommand))

/-- 10_state.md R26: PHASE is a shadow.  From two states that differ only in PHASE, the fault record and what the host was
given, the host's part of a step is the same, and the block's step, taken together with the `raise Fault` it may lead to
(log 6), makes the same accesses, gives the same response and comes to the same place; the states again differ only in
those. -/
def Obligations.PhaseIsOnlyAShadow : Prop :=
  ∀ s t : State, SameButShadow s t →
    (hostTurn s).2 = (hostTurn t).2 ∧ SameButShadow (hostTurn s).1 (hostTurn t).1 ∧
    SameOutcome (pastRaise (blockStep s)) (pastRaise (blockStep t))
end

