-- ==== Sys2Proof/Laws/Memory.lean ====
section
/-! SUPPORT. The laws of memory: a read after a write, and the canonical form, which every operation keeps. -/

namespace Sys2Proof.Machine

/-- A read at the written address gives the written byte. -/
@[simp] theorem Memory.get?_set_same (m : Memory) (a : Nat) (b : Byte) : Memory.get? (Memory.set m a b) a = some b := by
  induction m with
  | nil => simp [Memory.set, Memory.get?]
  | cons c m ih =>
    obtain ⟨k, v⟩ := c
    unfold Memory.set
    split
    · simp [Memory.get?]
    · split
      · simp [Memory.get?]
      · simp_all [Memory.get?]

/-- A write leaves every other address alone. -/
theorem Memory.get?_set_other (m : Memory) (a x : Nat) (b : Byte) (h : x ≠ a) :
    Memory.get? (Memory.set m a b) x = Memory.get? m x := by
  induction m with
  | nil => simp [Memory.set, Memory.get?, h]
  | cons c m ih =>
    obtain ⟨k, v⟩ := c
    unfold Memory.set
    split
    · simp [Memory.get?, h]
    · split
      · next hk => simp [Memory.get?, h, ← hk]
      · simp [Memory.get?, ih]

/-- A bound below a memory is one below the memory after a write above it. -/
theorem Memory.above_set (m : Memory) (k a : Nat) (b : Byte) (hk : k < a) (h : Memory.above k m = true) :
    Memory.above k (Memory.set m a b) = true := by
  induction m with
  | nil => simpa [Memory.set, Memory.above] using hk
  | cons c m ih =>
    obtain ⟨x, v⟩ := c
    simp only [Memory.above, List.all_cons, Bool.and_eq_true, decide_eq_true_eq] at h ih
    unfold Memory.set
    split
    · simp only [Memory.above, List.all_cons, Bool.and_eq_true, decide_eq_true_eq]; exact ⟨hk, h⟩
    · split
      · simp only [Memory.above, List.all_cons, Bool.and_eq_true, decide_eq_true_eq]; exact ⟨hk, h.2⟩
      · simp only [Memory.above, List.all_cons, Bool.and_eq_true, decide_eq_true_eq]; exact ⟨h.1, ih h.2⟩

/-- A bound can be lowered. -/
theorem Memory.above_of_le (m : Memory) (j k : Nat) (hjk : j ≤ k) (h : Memory.above k m = true) :
    Memory.above j m = true := by
  simp only [Memory.above, List.all_eq_true, decide_eq_true_eq] at h ⊢
  exact fun c hc => lt_of_le_of_lt hjk (h c hc)

/-- A write keeps the canonical form. -/
theorem Memory.wf_set (m : Memory) (a : Nat) (b : Byte) (h : Memory.wf m = true) :
    Memory.wf (Memory.set m a b) = true := by
  induction m with
  | nil => simp [Memory.set, Memory.wf, Memory.above]
  | cons c m ih =>
    obtain ⟨k, v⟩ := c
    simp only [Memory.wf, Bool.and_eq_true] at h
    unfold Memory.set
    split
    · next ha =>
      simp only [Memory.wf, Bool.and_eq_true]
      refine ⟨?_, h⟩
      have := Memory.above_of_le m a k (Nat.le_of_lt ha) h.1
      simpa [Memory.above, ha] using this
    · split
      · next hk => subst hk; simpa [Memory.wf] using h
      · next h1 h2 =>
        simp only [Memory.wf, Bool.and_eq_true]
        exact ⟨Memory.above_set m k a b (by omega) h.1, ih h.2⟩

/-- What an event stores keeps the canonical form. -/
theorem Event.wf_store (c : Config) (e : Event) (m : Memory) (h : Memory.wf m = true) :
    Memory.wf (e.store c m) = true := by
  cases e with
  | write r v => exact Memory.wf_set m _ v h
  | read r v => exact h
  | pin p md => exact h

end Sys2Proof.Machine
end

