-- ==== Sys2Proof/Laws/State.lean ====
section
/-! SUPPORT. One lemma per field of the state for each update: what the operations of Machine/Ops.lean do to it. -/

namespace Sys2Proof.Machine

/-! ## goTo -/

@[simp] theorem goTo_cfg (u : Upc) (s : State) : (goTo u s).cfg = s.cfg := rfl
@[simp] theorem goTo_prc (u : Upc) (s : State) : (goTo u s).prc = s.prc := rfl
@[simp] theorem goTo_phase (u : Upc) (s : State) : (goTo u s).phase = s.phase := rfl
@[simp] theorem goTo_busy (u : Upc) (s : State) : (goTo u s).busy = s.busy := rfl
@[simp] theorem goTo_cmd (u : Upc) (s : State) : (goTo u s).cmd = s.cmd := rfl
@[simp] theorem goTo_resp (u : Upc) (s : State) : (goTo u s).resp = s.resp := rfl
@[simp] theorem goTo_respValid (u : Upc) (s : State) : (goTo u s).respValid = s.respValid := rfl
@[simp] theorem goTo_fault (u : Upc) (s : State) : (goTo u s).fault = s.fault := rfl
@[simp] theorem goTo_faultCause (u : Upc) (s : State) : (goTo u s).faultCause = s.faultCause := rfl
@[simp] theorem goTo_upc (u : Upc) (s : State) : (goTo u s).upc = u := rfl
@[simp] theorem goTo_mem (u : Upc) (s : State) : (goTo u s).mem = s.mem := rfl
@[simp] theorem goTo_trace (u : Upc) (s : State) : (goTo u s).trace = s.trace := rfl
@[simp] theorem goTo_port (u : Upc) (s : State) : (goTo u s).port = s.port := rfl
@[simp] theorem goTo_host (u : Upc) (s : State) : (goTo u s).host = s.host := rfl
@[simp] theorem goTo_given (u : Upc) (s : State) : (goTo u s).given = s.given := rfl
@[simp] theorem goTo_answers (u : Upc) (s : State) : (goTo u s).answers = s.answers := rfl
@[simp] theorem goTo_draws (u : Upc) (s : State) : (goTo u s).draws = s.draws := rfl

/-! ## memWrite -/

@[simp] theorem memWrite_cfg (r : Reg) (v : Byte) (s : State) : (memWrite r v s).cfg = s.cfg := rfl
@[simp] theorem memWrite_prc (r : Reg) (v : Byte) (s : State) : (memWrite r v s).prc = s.prc := rfl
@[simp] theorem memWrite_phase (r : Reg) (v : Byte) (s : State) : (memWrite r v s).phase = s.phase := rfl
@[simp] theorem memWrite_busy (r : Reg) (v : Byte) (s : State) : (memWrite r v s).busy = s.busy := rfl
@[simp] theorem memWrite_cmd (r : Reg) (v : Byte) (s : State) : (memWrite r v s).cmd = s.cmd := rfl
@[simp] theorem memWrite_resp (r : Reg) (v : Byte) (s : State) : (memWrite r v s).resp = s.resp := rfl
@[simp] theorem memWrite_respValid (r : Reg) (v : Byte) (s : State) : (memWrite r v s).respValid = s.respValid := rfl
@[simp] theorem memWrite_fault (r : Reg) (v : Byte) (s : State) : (memWrite r v s).fault = s.fault := rfl
@[simp] theorem memWrite_faultCause (r : Reg) (v : Byte) (s : State) : (memWrite r v s).faultCause = s.faultCause := rfl
@[simp] theorem memWrite_pollCnt (r : Reg) (v : Byte) (s : State) : (memWrite r v s).pollCnt = s.pollCnt := rfl
@[simp] theorem memWrite_upc (r : Reg) (v : Byte) (s : State) : (memWrite r v s).upc = s.upc := rfl
@[simp] theorem memWrite_mem (r : Reg) (v : Byte) (s : State) : (memWrite r v s).mem = Memory.set s.mem (regAddr s.cfg r) v := rfl
@[simp] theorem memWrite_trace (r : Reg) (v : Byte) (s : State) : (memWrite r v s).trace = .write r v :: s.trace := rfl
@[simp] theorem memWrite_port (r : Reg) (v : Byte) (s : State) : (memWrite r v s).port = s.port := rfl
@[simp] theorem memWrite_host (r : Reg) (v : Byte) (s : State) : (memWrite r v s).host = s.host := rfl
@[simp] theorem memWrite_given (r : Reg) (v : Byte) (s : State) : (memWrite r v s).given = s.given := rfl
@[simp] theorem memWrite_answers (r : Reg) (v : Byte) (s : State) : (memWrite r v s).answers = s.answers := rfl
@[simp] theorem memWrite_draws (r : Reg) (v : Byte) (s : State) : (memWrite r v s).draws = s.draws := rfl

/-! ## memRead -/

@[simp] theorem memRead_cfg (r : Reg) (s : State) : (memRead r s).cfg = s.cfg := rfl
@[simp] theorem memRead_prc (r : Reg) (s : State) : (memRead r s).prc = s.prc := rfl
@[simp] theorem memRead_phase (r : Reg) (s : State) : (memRead r s).phase = s.phase := rfl
@[simp] theorem memRead_busy (r : Reg) (s : State) : (memRead r s).busy = s.busy := rfl
@[simp] theorem memRead_cmd (r : Reg) (s : State) : (memRead r s).cmd = s.cmd := rfl
@[simp] theorem memRead_resp (r : Reg) (s : State) : (memRead r s).resp = s.resp := rfl
@[simp] theorem memRead_respValid (r : Reg) (s : State) : (memRead r s).respValid = s.respValid := rfl
@[simp] theorem memRead_fault (r : Reg) (s : State) : (memRead r s).fault = s.fault := rfl
@[simp] theorem memRead_faultCause (r : Reg) (s : State) : (memRead r s).faultCause = s.faultCause := rfl
@[simp] theorem memRead_pollCnt (r : Reg) (s : State) : (memRead r s).pollCnt = s.pollCnt := rfl
@[simp] theorem memRead_upc (r : Reg) (s : State) : (memRead r s).upc = s.upc := rfl
@[simp] theorem memRead_mem (r : Reg) (s : State) : (memRead r s).mem = s.mem := rfl
@[simp] theorem memRead_trace (r : Reg) (s : State) : (memRead r s).trace = .read r s.answer :: s.trace := rfl
@[simp] theorem memRead_port (r : Reg) (s : State) : (memRead r s).port = s.port := rfl
@[simp] theorem memRead_host (r : Reg) (s : State) : (memRead r s).host = s.host := rfl
@[simp] theorem memRead_given (r : Reg) (s : State) : (memRead r s).given = s.given := rfl
@[simp] theorem memRead_answers (r : Reg) (s : State) : (memRead r s).answers = s.answers.tail := rfl
@[simp] theorem memRead_draws (r : Reg) (s : State) : (memRead r s).draws = s.draws + 1 := rfl

/-! ## pinConfig -/

@[simp] theorem pinConfig_cfg (p : Pin) (m : PinMode) (s : State) : (pinConfig p m s).cfg = s.cfg := rfl
@[simp] theorem pinConfig_prc (p : Pin) (m : PinMode) (s : State) : (pinConfig p m s).prc = s.prc := rfl
@[simp] theorem pinConfig_phase (p : Pin) (m : PinMode) (s : State) : (pinConfig p m s).phase = s.phase := rfl
@[simp] theorem pinConfig_busy (p : Pin) (m : PinMode) (s : State) : (pinConfig p m s).busy = s.busy := rfl
@[simp] theorem pinConfig_cmd (p : Pin) (m : PinMode) (s : State) : (pinConfig p m s).cmd = s.cmd := rfl
@[simp] theorem pinConfig_resp (p : Pin) (m : PinMode) (s : State) : (pinConfig p m s).resp = s.resp := rfl
@[simp] theorem pinConfig_respValid (p : Pin) (m : PinMode) (s : State) : (pinConfig p m s).respValid = s.respValid := rfl
@[simp] theorem pinConfig_fault (p : Pin) (m : PinMode) (s : State) : (pinConfig p m s).fault = s.fault := rfl
@[simp] theorem pinConfig_faultCause (p : Pin) (m : PinMode) (s : State) : (pinConfig p m s).faultCause = s.faultCause := rfl
@[simp] theorem pinConfig_pollCnt (p : Pin) (m : PinMode) (s : State) : (pinConfig p m s).pollCnt = s.pollCnt := rfl
@[simp] theorem pinConfig_upc (p : Pin) (m : PinMode) (s : State) : (pinConfig p m s).upc = s.upc := rfl
@[simp] theorem pinConfig_mem (p : Pin) (m : PinMode) (s : State) : (pinConfig p m s).mem = s.mem := rfl
@[simp] theorem pinConfig_trace (p : Pin) (m : PinMode) (s : State) : (pinConfig p m s).trace = .pin p m :: s.trace := rfl
@[simp] theorem pinConfig_port (p : Pin) (m : PinMode) (s : State) : (pinConfig p m s).port = s.port := rfl
@[simp] theorem pinConfig_host (p : Pin) (m : PinMode) (s : State) : (pinConfig p m s).host = s.host := rfl
@[simp] theorem pinConfig_given (p : Pin) (m : PinMode) (s : State) : (pinConfig p m s).given = s.given := rfl
@[simp] theorem pinConfig_answers (p : Pin) (m : PinMode) (s : State) : (pinConfig p m s).answers = s.answers := rfl
@[simp] theorem pinConfig_draws (p : Pin) (m : PinMode) (s : State) : (pinConfig p m s).draws = s.draws := rfl

/-! ## setPrc -/

@[simp] theorem setPrc_cfg (c : Count) (s : State) : (setPrc c s).cfg = s.cfg := rfl
@[simp] theorem setPrc_prc (c : Count) (s : State) : (setPrc c s).prc = c := rfl
@[simp] theorem setPrc_phase (c : Count) (s : State) : (setPrc c s).phase = s.phase := rfl
@[simp] theorem setPrc_busy (c : Count) (s : State) : (setPrc c s).busy = s.busy := rfl
@[simp] theorem setPrc_cmd (c : Count) (s : State) : (setPrc c s).cmd = s.cmd := rfl
@[simp] theorem setPrc_resp (c : Count) (s : State) : (setPrc c s).resp = s.resp := rfl
@[simp] theorem setPrc_respValid (c : Count) (s : State) : (setPrc c s).respValid = s.respValid := rfl
@[simp] theorem setPrc_fault (c : Count) (s : State) : (setPrc c s).fault = s.fault := rfl
@[simp] theorem setPrc_faultCause (c : Count) (s : State) : (setPrc c s).faultCause = s.faultCause := rfl
@[simp] theorem setPrc_pollCnt (c : Count) (s : State) : (setPrc c s).pollCnt = s.pollCnt := rfl
@[simp] theorem setPrc_upc (c : Count) (s : State) : (setPrc c s).upc = s.upc := rfl
@[simp] theorem setPrc_mem (c : Count) (s : State) : (setPrc c s).mem = s.mem := rfl
@[simp] theorem setPrc_trace (c : Count) (s : State) : (setPrc c s).trace = s.trace := rfl
@[simp] theorem setPrc_port (c : Count) (s : State) : (setPrc c s).port = s.port := rfl
@[simp] theorem setPrc_host (c : Count) (s : State) : (setPrc c s).host = s.host := rfl
@[simp] theorem setPrc_given (c : Count) (s : State) : (setPrc c s).given = s.given := rfl
@[simp] theorem setPrc_answers (c : Count) (s : State) : (setPrc c s).answers = s.answers := rfl
@[simp] theorem setPrc_draws (c : Count) (s : State) : (setPrc c s).draws = s.draws := rfl

/-! ## setPhase -/

@[simp] theorem setPhase_cfg (p : Phase) (s : State) : (setPhase p s).cfg = s.cfg := rfl
@[simp] theorem setPhase_prc (p : Phase) (s : State) : (setPhase p s).prc = s.prc := rfl
@[simp] theorem setPhase_phase (p : Phase) (s : State) : (setPhase p s).phase = p := rfl
@[simp] theorem setPhase_busy (p : Phase) (s : State) : (setPhase p s).busy = s.busy := rfl
@[simp] theorem setPhase_cmd (p : Phase) (s : State) : (setPhase p s).cmd = s.cmd := rfl
@[simp] theorem setPhase_resp (p : Phase) (s : State) : (setPhase p s).resp = s.resp := rfl
@[simp] theorem setPhase_respValid (p : Phase) (s : State) : (setPhase p s).respValid = s.respValid := rfl
@[simp] theorem setPhase_fault (p : Phase) (s : State) : (setPhase p s).fault = s.fault := rfl
@[simp] theorem setPhase_faultCause (p : Phase) (s : State) : (setPhase p s).faultCause = s.faultCause := rfl
@[simp] theorem setPhase_pollCnt (p : Phase) (s : State) : (setPhase p s).pollCnt = s.pollCnt := rfl
@[simp] theorem setPhase_upc (p : Phase) (s : State) : (setPhase p s).upc = s.upc := rfl
@[simp] theorem setPhase_mem (p : Phase) (s : State) : (setPhase p s).mem = s.mem := rfl
@[simp] theorem setPhase_trace (p : Phase) (s : State) : (setPhase p s).trace = s.trace := rfl
@[simp] theorem setPhase_port (p : Phase) (s : State) : (setPhase p s).port = s.port := rfl
@[simp] theorem setPhase_host (p : Phase) (s : State) : (setPhase p s).host = s.host := rfl
@[simp] theorem setPhase_given (p : Phase) (s : State) : (setPhase p s).given = s.given := rfl
@[simp] theorem setPhase_answers (p : Phase) (s : State) : (setPhase p s).answers = s.answers := rfl
@[simp] theorem setPhase_draws (p : Phase) (s : State) : (setPhase p s).draws = s.draws := rfl

/-! ## respond -/

@[simp] theorem respond_cfg (r : Reply) (s : State) : (respond r s).cfg = s.cfg := rfl
@[simp] theorem respond_prc (r : Reply) (s : State) : (respond r s).prc = s.prc := rfl
@[simp] theorem respond_phase (r : Reply) (s : State) : (respond r s).phase = s.phase := rfl
@[simp] theorem respond_busy (r : Reply) (s : State) : (respond r s).busy = false := rfl
@[simp] theorem respond_cmd (r : Reply) (s : State) : (respond r s).cmd = s.cmd := rfl
@[simp] theorem respond_resp (r : Reply) (s : State) : (respond r s).resp = r.word := rfl
@[simp] theorem respond_respValid (r : Reply) (s : State) : (respond r s).respValid = true := rfl
@[simp] theorem respond_fault (r : Reply) (s : State) : (respond r s).fault = s.fault := rfl
@[simp] theorem respond_faultCause (r : Reply) (s : State) : (respond r s).faultCause = s.faultCause := rfl
@[simp] theorem respond_pollCnt (r : Reply) (s : State) : (respond r s).pollCnt = s.pollCnt := rfl
@[simp] theorem respond_upc (r : Reply) (s : State) : (respond r s).upc = .idle := rfl
@[simp] theorem respond_mem (r : Reply) (s : State) : (respond r s).mem = s.mem := rfl
@[simp] theorem respond_trace (r : Reply) (s : State) : (respond r s).trace = s.trace := rfl
@[simp] theorem respond_port (r : Reply) (s : State) : (respond r s).port = s.port := rfl
@[simp] theorem respond_host (r : Reply) (s : State) : (respond r s).host = s.host := rfl
@[simp] theorem respond_given (r : Reply) (s : State) : (respond r s).given = s.given := rfl
@[simp] theorem respond_answers (r : Reply) (s : State) : (respond r s).answers = s.answers := rfl
@[simp] theorem respond_draws (r : Reply) (s : State) : (respond r s).draws = s.draws := rfl

/-! ## latch -/

@[simp] theorem latch_cfg (w : Word) (s : State) : (latch w s).cfg = s.cfg := rfl
@[simp] theorem latch_prc (w : Word) (s : State) : (latch w s).prc = s.prc := rfl
@[simp] theorem latch_phase (w : Word) (s : State) : (latch w s).phase = s.phase := rfl
@[simp] theorem latch_busy (w : Word) (s : State) : (latch w s).busy = true := rfl
@[simp] theorem latch_cmd (w : Word) (s : State) : (latch w s).cmd = w := rfl
@[simp] theorem latch_resp (w : Word) (s : State) : (latch w s).resp = s.resp := rfl
@[simp] theorem latch_respValid (w : Word) (s : State) : (latch w s).respValid = s.respValid := rfl
@[simp] theorem latch_fault (w : Word) (s : State) : (latch w s).fault = s.fault := rfl
@[simp] theorem latch_faultCause (w : Word) (s : State) : (latch w s).faultCause = s.faultCause := rfl
@[simp] theorem latch_pollCnt (w : Word) (s : State) : (latch w s).pollCnt = s.pollCnt := rfl
@[simp] theorem latch_upc (w : Word) (s : State) : (latch w s).upc = s.upc := rfl
@[simp] theorem latch_mem (w : Word) (s : State) : (latch w s).mem = s.mem := rfl
@[simp] theorem latch_trace (w : Word) (s : State) : (latch w s).trace = s.trace := rfl
@[simp] theorem latch_port (w : Word) (s : State) : (latch w s).port = none := rfl
@[simp] theorem latch_host (w : Word) (s : State) : (latch w s).host = s.host := rfl
@[simp] theorem latch_given (w : Word) (s : State) : (latch w s).given = s.given := rfl
@[simp] theorem latch_answers (w : Word) (s : State) : (latch w s).answers = s.answers := rfl
@[simp] theorem latch_draws (w : Word) (s : State) : (latch w s).draws = s.draws := rfl

/-! ## countPoll -/

@[simp] theorem countPoll_cfg (s : State) : (countPoll s).cfg = s.cfg := rfl
@[simp] theorem countPoll_prc (s : State) : (countPoll s).prc = s.prc := rfl
@[simp] theorem countPoll_phase (s : State) : (countPoll s).phase = s.phase := rfl
@[simp] theorem countPoll_busy (s : State) : (countPoll s).busy = s.busy := rfl
@[simp] theorem countPoll_cmd (s : State) : (countPoll s).cmd = s.cmd := rfl
@[simp] theorem countPoll_resp (s : State) : (countPoll s).resp = s.resp := rfl
@[simp] theorem countPoll_respValid (s : State) : (countPoll s).respValid = s.respValid := rfl
@[simp] theorem countPoll_fault (s : State) : (countPoll s).fault = s.fault := rfl
@[simp] theorem countPoll_faultCause (s : State) : (countPoll s).faultCause = s.faultCause := rfl
@[simp] theorem countPoll_pollCnt (s : State) : (countPoll s).pollCnt = if s.cfg.pollLimit.isSome then s.pollCnt + 1 else s.pollCnt := rfl
@[simp] theorem countPoll_upc (s : State) : (countPoll s).upc = s.upc := rfl
@[simp] theorem countPoll_mem (s : State) : (countPoll s).mem = s.mem := rfl
@[simp] theorem countPoll_trace (s : State) : (countPoll s).trace = s.trace := rfl
@[simp] theorem countPoll_port (s : State) : (countPoll s).port = s.port := rfl
@[simp] theorem countPoll_host (s : State) : (countPoll s).host = s.host := rfl
@[simp] theorem countPoll_given (s : State) : (countPoll s).given = s.given := rfl
@[simp] theorem countPoll_answers (s : State) : (countPoll s).answers = s.answers := rfl
@[simp] theorem countPoll_draws (s : State) : (countPoll s).draws = s.draws := rfl

/-! ## blockReset -/

@[simp] theorem blockReset_cfg (s : State) : (blockReset s).cfg = s.cfg := rfl
@[simp] theorem blockReset_prc (s : State) : (blockReset s).prc = 0#16 := rfl
@[simp] theorem blockReset_phase (s : State) : (blockReset s).phase = .uninit := rfl
@[simp] theorem blockReset_busy (s : State) : (blockReset s).busy = false := rfl
@[simp] theorem blockReset_cmd (s : State) : (blockReset s).cmd = 0#32 := rfl
@[simp] theorem blockReset_resp (s : State) : (blockReset s).resp = 0#32 := rfl
@[simp] theorem blockReset_respValid (s : State) : (blockReset s).respValid = false := rfl
@[simp] theorem blockReset_fault (s : State) : (blockReset s).fault = false := rfl
@[simp] theorem blockReset_faultCause (s : State) : (blockReset s).faultCause = .none := rfl
@[simp] theorem blockReset_pollCnt (s : State) : (blockReset s).pollCnt = 0 := rfl
@[simp] theorem blockReset_upc (s : State) : (blockReset s).upc = .idle := rfl
@[simp] theorem blockReset_mem (s : State) : (blockReset s).mem = s.mem := rfl
@[simp] theorem blockReset_trace (s : State) : (blockReset s).trace = s.trace := rfl
@[simp] theorem blockReset_port (s : State) : (blockReset s).port = s.port := rfl
@[simp] theorem blockReset_host (s : State) : (blockReset s).host = s.host := rfl
@[simp] theorem blockReset_given (s : State) : (blockReset s).given = s.given := rfl
@[simp] theorem blockReset_answers (s : State) : (blockReset s).answers = s.answers := rfl
@[simp] theorem blockReset_draws (s : State) : (blockReset s).draws = s.draws := rfl

/-! ## presentWord -/

@[simp] theorem presentWord_cfg (w : Word) (s : State) : (presentWord w s).cfg = s.cfg := rfl
@[simp] theorem presentWord_prc (w : Word) (s : State) : (presentWord w s).prc = s.prc := rfl
@[simp] theorem presentWord_phase (w : Word) (s : State) : (presentWord w s).phase = s.phase := rfl
@[simp] theorem presentWord_busy (w : Word) (s : State) : (presentWord w s).busy = false := rfl
@[simp] theorem presentWord_cmd (w : Word) (s : State) : (presentWord w s).cmd = s.cmd := rfl
@[simp] theorem presentWord_resp (w : Word) (s : State) : (presentWord w s).resp = s.resp := rfl
@[simp] theorem presentWord_respValid (w : Word) (s : State) : (presentWord w s).respValid = false := rfl
@[simp] theorem presentWord_fault (w : Word) (s : State) : (presentWord w s).fault = s.fault := rfl
@[simp] theorem presentWord_faultCause (w : Word) (s : State) : (presentWord w s).faultCause = s.faultCause := rfl
@[simp] theorem presentWord_pollCnt (w : Word) (s : State) : (presentWord w s).pollCnt = s.pollCnt := rfl
@[simp] theorem presentWord_upc (w : Word) (s : State) : (presentWord w s).upc = .idle := rfl
@[simp] theorem presentWord_mem (w : Word) (s : State) : (presentWord w s).mem = s.mem := rfl
@[simp] theorem presentWord_trace (w : Word) (s : State) : (presentWord w s).trace = s.trace := rfl
@[simp] theorem presentWord_port (w : Word) (s : State) : (presentWord w s).port = some w := rfl
@[simp] theorem presentWord_host (w : Word) (s : State) : (presentWord w s).host = [] := rfl
@[simp] theorem presentWord_given (w : Word) (s : State) : (presentWord w s).given = s.given := rfl
@[simp] theorem presentWord_answers (w : Word) (s : State) : (presentWord w s).answers = s.answers := rfl
@[simp] theorem presentWord_draws (w : Word) (s : State) : (presentWord w s).draws = s.draws := rfl

/-! ## raiseFault: only FAULT and FAULT_CAUSE can change -/

@[simp] theorem raiseFault_cfg (c : FaultCause) (s : State) : (raiseFault c s).cfg = s.cfg := by
  unfold raiseFault; split <;> rfl
@[simp] theorem raiseFault_prc (c : FaultCause) (s : State) : (raiseFault c s).prc = s.prc := by
  unfold raiseFault; split <;> rfl
@[simp] theorem raiseFault_phase (c : FaultCause) (s : State) : (raiseFault c s).phase = s.phase := by
  unfold raiseFault; split <;> rfl
@[simp] theorem raiseFault_busy (c : FaultCause) (s : State) : (raiseFault c s).busy = s.busy := by
  unfold raiseFault; split <;> rfl
@[simp] theorem raiseFault_cmd (c : FaultCause) (s : State) : (raiseFault c s).cmd = s.cmd := by
  unfold raiseFault; split <;> rfl
@[simp] theorem raiseFault_resp (c : FaultCause) (s : State) : (raiseFault c s).resp = s.resp := by
  unfold raiseFault; split <;> rfl
@[simp] theorem raiseFault_respValid (c : FaultCause) (s : State) : (raiseFault c s).respValid = s.respValid := by
  unfold raiseFault; split <;> rfl
@[simp] theorem raiseFault_pollCnt (c : FaultCause) (s : State) : (raiseFault c s).pollCnt = s.pollCnt := by
  unfold raiseFault; split <;> rfl
@[simp] theorem raiseFault_upc (c : FaultCause) (s : State) : (raiseFault c s).upc = s.upc := by
  unfold raiseFault; split <;> rfl
@[simp] theorem raiseFault_mem (c : FaultCause) (s : State) : (raiseFault c s).mem = s.mem := by
  unfold raiseFault; split <;> rfl
@[simp] theorem raiseFault_trace (c : FaultCause) (s : State) : (raiseFault c s).trace = s.trace := by
  unfold raiseFault; split <;> rfl
@[simp] theorem raiseFault_port (c : FaultCause) (s : State) : (raiseFault c s).port = s.port := by
  unfold raiseFault; split <;> rfl
@[simp] theorem raiseFault_host (c : FaultCause) (s : State) : (raiseFault c s).host = s.host := by
  unfold raiseFault; split <;> rfl
@[simp] theorem raiseFault_given (c : FaultCause) (s : State) : (raiseFault c s).given = s.given := by
  unfold raiseFault; split <;> rfl
@[simp] theorem raiseFault_answers (c : FaultCause) (s : State) : (raiseFault c s).answers = s.answers := by
  unfold raiseFault; split <;> rfl
@[simp] theorem raiseFault_draws (c : FaultCause) (s : State) : (raiseFault c s).draws = s.draws := by
  unfold raiseFault; split <;> rfl

/-- After `raise Fault(c)` a fault is recorded. -/
@[simp] theorem raiseFault_fault (c : FaultCause) (s : State) : (raiseFault c s).fault = true := by
  unfold raiseFault; split <;> simp_all

/-- `raise Fault(c)` keeps the cause of the first fault. -/
@[simp] theorem raiseFault_faultCause (c : FaultCause) (s : State) :
    (raiseFault c s).faultCause = if s.fault then s.faultCause else c := by
  unfold raiseFault; split <;> simp_all

/-! ## raise Fault as a step: the fault, then the next place -/

@[simp] theorem raiseThenBody_eq (c : FaultCause) (i : Instr) (s : State) :
    raiseThenBody c i s = goTo (bodyEntry s.cfg i) (raiseFault c s) := rfl
@[simp] theorem raiseThenRespond_eq (c : FaultCause) (s : State) :
    raiseThenRespond c s = goTo (.respond (.failure .illegalCommand)) (raiseFault c s) := rfl

/-! ## POLL_CNT on entry to a step -/

/-- Without a limit POLL_CNT does not move. -/
theorem goTo_pollCnt_of_unlimited (u : Upc) (s : State) (h : s.cfg.pollLimit = none) :
    (goTo u s).pollCnt = s.pollCnt := by
  simp only [goTo, h]

/-- Entering a poll loop with a limit clears POLL_CNT. -/
theorem goTo_poll_pollCnt (w : Wait) (s : State) (l : Nat) (h : s.cfg.pollLimit = some l) :
    (goTo (.poll w) s).pollCnt = 0 := by
  simp [goTo, h]

/-- Any other step leaves POLL_CNT. -/
theorem goTo_pollCnt_of_not_poll (u : Upc) (s : State) (h : ∀ w, u ≠ .poll w) :
    (goTo u s).pollCnt = s.pollCnt := by
  cases u <;> simp_all [goTo]

/-! ## The answer a read gets -/

/-- The next listed answer. -/
theorem answer_of_cons (s : State) (b : Byte) (bs : List Byte) (h : s.answers = b :: bs) : s.answer = b := by
  simp [State.answer, h]

/-- The step's other updates do not change the next answer. -/
@[simp] theorem goTo_answer (u : Upc) (s : State) : (goTo u s).answer = s.answer := rfl
@[simp] theorem memWrite_answer (r : Reg) (v : Byte) (s : State) : (memWrite r v s).answer = s.answer := rfl
@[simp] theorem setPrc_answer (c : Count) (s : State) : (setPrc c s).answer = s.answer := rfl
@[simp] theorem setPhase_answer (p : Phase) (s : State) : (setPhase p s).answer = s.answer := rfl
@[simp] theorem countPoll_answer (s : State) : (countPoll s).answer = s.answer := rfl

end Sys2Proof.Machine
end

