-- ==== Sys2Proof/Laws/Ops.lean ====
section
/-! SUPPORT. One lemma per shared operation that says everything it can do, and the same for the step: later proofs cite
these instead of unfolding the operations. -/

namespace Sys2Proof.Machine

variable {s t : State}

/-- Acceptance: either nothing (no word, or the block may not accept), or the word is latched and the body, or the
record of a misuse, is next. -/
theorem accept_cases (i : Instr) (s : State) :
    (accept i s = s ∧ (s.port = none ∨ s.busy = true ∨ s.respValid = true)) ∨
    (∃ w, s.port = some w ∧ s.busy = false ∧ s.respValid = false ∧ accept i s = goTo (afterAccept i s) (latch w s)) := by
  unfold accept
  cases hp : s.port with
  | none => simp
  | some w => cases hb : s.busy <;> cases hv : s.respValid <;> simp

/-- Acceptance of a presented word. -/
theorem accept_of_presented (i : Instr) (w : Word) (hp : s.port = some w) (hb : s.busy = false)
    (hv : s.respValid = false) : accept i s = goTo (afterAccept i s) (latch w s) := by
  simp [accept, hp, hb, hv]

/-- The table of R28 as a list and as the check acceptance makes are one. -/
theorem mem_phasesOf (i : Instr) (p : Phase) : p ∈ phasesOf i ↔ legalIn i p = true := by
  cases i <;> cases p <;> simp [phasesOf, legalIn]

/-- In phase the body is next, out of phase the record of the misuse. -/
theorem afterAccept_cases (i : Instr) (s : State) :
    (legalIn i s.phase = true ∧ afterAccept i s = bodyEntry s.cfg i) ∨
    (legalIn i s.phase = false ∧ afterAccept i s = .raise .phaseMisuse) := by
  unfold afterAccept
  cases h : legalIn i s.phase <;> simp

/-- A body begins at a line, or in variant A's WRITE at its poll loop. -/
theorem bodyEntry_cases (c : Config) (i : Instr) :
    (∃ l, bodyEntry c i = .line l) ∨ (bodyEntry c i = .poll .wif ∧ c.writeVariant = .a ∧ ∃ b, i = .write b) := by
  cases i <;> cases h : c.writeVariant <;> simp [bodyEntry, writeEntry, h]

/-- One turn of a poll loop: TIMEOUT at the limit, or a read that ends the loop, or a read that does not. -/
theorem pollTurn_cases (w : Wait) (u : Upc) (s : State) :
    (s.cfg.pollLimit = some s.pollCnt ∧
      pollTurn w u s = goTo (.respond (.failure .timeout)) (setPhase .unsettled s)) ∨
    (s.cfg.pollLimit ≠ some s.pollCnt ∧ waitHolds s.cfg.layout w s.answer = true ∧
      pollTurn w u s = goTo u (countPoll (memRead .status s))) ∨
    (s.cfg.pollLimit ≠ some s.pollCnt ∧ waitHolds s.cfg.layout w s.answer = false ∧
      pollTurn w u s = countPoll (memRead .status s)) := by
  unfold pollTurn
  by_cases h : s.cfg.pollLimit = some s.pollCnt
  · simp [h]
  · cases hw : waitHolds s.cfg.layout w s.answer <;> simp [h]

/-- What the shared end of a command can do. -/
theorem closing_cases (h : closing s = .next t) :
    (∃ p r, s.upc = .setPhase p r ∧ t = goTo (.respond r) (setPhase p s)) ∨
    (∃ r, s.upc = .respond r ∧ t = respond r s) := by
  unfold closing at h
  split at h <;> simp_all

/-- The steps of an illegal command in progress: the record of its fault, and its response. -/
theorem illegalTurn_cases (h : illegalTurn s = .next t) :
    (∃ c, s.upc = .raise c ∧ t = raiseThenRespond c s) ∨ (∃ r, s.upc = .respond r ∧ t = respond r s) := by
  unfold illegalTurn at h
  split at h <;> simp_all

/-- What the host's part of a step can be. -/
theorem hostTurn_cases (s : State) :
    (hostTurn s = (s, true)) ∨
    (∃ ms, s.host = .pass :: ms ∧ hostTurn s = ({ s with host := ms }, true)) ∨
    (∃ w ms, s.host = .issue w :: ms ∧ s.port = none ∧
      hostTurn s = ({ s with host := ms, port := some w }, false)) ∨
    (∃ ms, s.host = .take :: ms ∧ s.respValid = true ∧
      hostTurn s = ({ s with host := ms, respValid := false, given := .response s.resp :: s.given }, false)) ∨
    (∃ ms, s.host = .readStatus :: ms ∧
      hostTurn s = ({ s with host := ms, given := .status (blkStatus s) :: s.given }, false)) ∨
    (∃ w ms, s.host = .writeStatus w :: ms ∧ hostTurn s = ({ s with host := ms }, false)) ∨
    (∃ ms, s.host = .reset :: ms ∧ hostTurn s = (blockReset { s with host := ms }, false)) := by
  unfold hostTurn
  cases hh : s.host with
  | nil => simp
  | cons m ms =>
    cases m with
    | pass => simp
    | issue w => cases hp : s.port <;> simp
    | take => cases hv : s.respValid <;> simp
    | readStatus => simp
    | writeStatus w => simp
    | reset => simp

/-- A step is the host's move, or the block's step after the host let it pass. -/
theorem step_cases (h : step s = .next t) :
    ((hostTurn s).2 = false ∧ t = (hostTurn s).1) ∨ ((hostTurn s).2 = true ∧ blockStep (hostTurn s).1 = .next t) := by
  unfold step at h
  cases hh : (hostTurn s).2 <;> simp_all

/-- With no host move pending the step is the block's. -/
theorem step_of_no_host (h : s.host = []) : step s = blockStep s := by
  simp [step, hostTurn, h]

/-- What the block's step can be: nothing to do, a step of the command its word stands for, or of an illegal word. -/
theorem blockStep_cases (s : State) :
    (fetch s = none ∧ blockStep s = .next s) ∨
    (∃ w i, fetch s = some w ∧ decode w = .ok i ∧ blockStep s = exec i s) ∨
    (∃ w e, fetch s = some w ∧ decode w = .error e ∧ blockStep s = illegalStep w s) := by
  unfold blockStep
  cases hf : fetch s with
  | none => simp
  | some w => cases hd : decode w <;> simp [hd]

/-- A running command takes the block's step. -/
theorem blockStep_of_busy (i : Instr) (hb : s.busy = true) (hd : decode s.cmd = .ok i) : blockStep s = exec i s := by
  simp [blockStep, fetch, hb, hd]

/-- A presented word takes the block's step once the last response has been taken. -/
theorem blockStep_of_presented (i : Instr) (w : Word) (hb : s.busy = false) (hv : s.respValid = false)
    (hp : s.port = some w) (hd : decode w = .ok i) : blockStep s = exec i s := by
  simp [blockStep, fetch, hb, hv, hp, hd]

/-! ## Each command, line by line -/

/-- Between commands every command's step is its acceptance. -/
theorem exec_idle (i : Instr) (hu : s.upc = .idle) : exec i s = .next (accept i s) := by
  cases i <;> simp [exec, execInit, execStart, execRestart, execWrite, execRead, execReadlast, execStop, hu]

/-- At `raise Fault` every command's step records the fault and goes on to the body. -/
theorem exec_raise (i : Instr) (c : FaultCause) (hu : s.upc = .raise c) : exec i s = .next (raiseThenBody c i s) := by
  cases i <;> simp [exec, execInit, execStart, execRestart, execWrite, execRead, execReadlast, execStop, hu]

/-- Everything a step of INIT can do. -/
theorem execInit_cases (h : execInit s = .next t) :
    (s.upc = .idle ∧ t = accept .init s) ∨
    (∃ c, s.upc = .raise c ∧ t = raiseThenBody c .init s) ∨
    (s.upc = .line .pinSda ∧ t = goTo (.line .pinScl) (pinConfig .sda .inputPullup s)) ∨
    (s.upc = .line .pinScl ∧ t = goTo (.line .wrBaud) (pinConfig .scl .inputPullup s)) ∨
    (s.upc = .line .wrBaud ∧ t = goTo (.line .wrCtrla) (memWrite .baud s.cfg.baudValue s)) ∨
    (s.upc = .line .wrCtrla ∧ t = goTo (.line .wrStatus) (memWrite .ctrla s.cfg.layout.ctrlaEnableMaster s)) ∨
    (s.upc = .line .wrStatus ∧
      t = goTo (.setPhase .idle (.success 0#8)) (memWrite .status s.cfg.layout.statusForceIdle s)) ∨
    closing s = .next t := by
  unfold execInit at h
  split at h <;> simp_all

/-- Everything a step of the body of START and RESTART can do. -/
theorem startBody_cases {a : PeerAddr} {n : Count} (h : startBody a n s = .next t) :
    (s.upc = .line .setPrc ∧ t = goTo (.line .addressing) (if isRead n then setPrc n s else s)) ∨
    (s.upc = .line .addressing ∧ t = goTo (.line .wrAddr) (setPhase .addressing s)) ∨
    (s.upc = .line .wrAddr ∧
      t = goTo (.poll .addrDone) (memWrite .addr (addressByte s.cfg.layout a (isRead n)) s)) ∨
    (s.upc = .poll .addrDone ∧ t = pollTurn .addrDone (.line .rdS1) s) ∨
    (s.upc = .line .rdS1 ∧ t = goTo (afterS1 s.cfg s.answer) (memRead .status s)) ∨
    (s.upc = .line .rdS2 ∧ t = goTo (afterS2 s.cfg n s.answer) (memRead .status s)) ∨
    (∃ r, s.upc = .line (.wrStop r) ∧ t = goTo (.poll (.busIdle r)) (memWrite .ctrlb s.cfg.layout.cmdStop s)) ∨
    (∃ r, s.upc = .poll (.busIdle r) ∧ t = pollTurn (.busIdle r) (.setPhase .idle r) s) ∨
    closing s = .next t := by
  unfold startBody at h
  split at h <;> simp_all

/-- A step of START is its acceptance, the record of its misuse, or one of its body. -/
theorem execStart_cases {a : PeerAddr} {n : Count} (h : execStart a n s = .next t) :
    (s.upc = .idle ∧ t = accept (.start a n) s) ∨
    (∃ c, s.upc = .raise c ∧ t = raiseThenBody c (.start a n) s) ∨ startBody a n s = .next t := by
  unfold execStart at h
  split at h <;> simp_all

/-- A step of RESTART is its acceptance, the record of its misuse, or one of START's body. -/
theorem execRestart_cases {a : PeerAddr} {n : Count} (h : execRestart a n s = .next t) :
    (s.upc = .idle ∧ t = accept (.restart a n) s) ∨
    (∃ c, s.upc = .raise c ∧ t = raiseThenBody c (.restart a n) s) ∨ startBody a n s = .next t := by
  unfold execRestart at h
  split at h <;> simp_all

/-- Everything a step of STOP can do. -/
theorem execStop_cases (h : execStop s = .next t) :
    (s.upc = .idle ∧ t = accept .stop s) ∨
    (∃ c, s.upc = .raise c ∧ t = raiseThenBody c .stop s) ∨
    (∃ r, s.upc = .line (.wrStop r) ∧ t = goTo (afterStop s.cfg r) (memWrite .ctrlb s.cfg.layout.cmdStop s)) ∨
    (∃ r, s.upc = .poll (.busIdle r) ∧ t = pollTurn (.busIdle r) (.setPhase .idle r) s) ∨
    closing s = .next t := by
  unfold execStop at h
  split at h <;> simp_all

/-- Everything a step of WRITE variant B's body can do. -/
theorem writeBodyB_cases {b : Byte} (h : writeBodyB b s = .next t) :
    (s.upc = .line .wrPrime ∧ t = goTo (.line .wrData) (memWrite .ctrlb s.cfg.layout.cmdPrime s)) ∨
    (s.upc = .line .wrData ∧ t = goTo (.poll .wif) (memWrite .data b s)) ∨
    (s.upc = .poll .wif ∧ t = pollTurn .wif (.line .rdS1) s) ∨
    (s.upc = .line .rdS1 ∧ t = goTo (afterWriteS1 s.cfg.layout s.answer) (memRead .status s)) ∨
    (s.upc = .line .rdS2 ∧ t = goTo (ackReply s.cfg.layout s.answer) (memRead .status s)) ∨
    closing s = .next t := by
  unfold writeBodyB at h
  split at h <;> simp_all

/-- Everything a step of WRITE variant A's body can do. -/
theorem writeBodyA_cases {b : Byte} (h : writeBodyA b s = .next t) :
    (s.upc = .poll .wif ∧ t = pollTurn .wif (.line .wrData) s) ∨
    (s.upc = .line .wrData ∧ t = goTo (.line .wrPrime) (memWrite .data b s)) ∨
    (s.upc = .line .wrPrime ∧ t = goTo (.line .rdS1) (memWrite .ctrlb s.cfg.layout.cmdPrime s)) ∨
    (s.upc = .line .rdS1 ∧ t = goTo (ackReply s.cfg.layout s.answer) (memRead .status s)) ∨
    closing s = .next t := by
  unfold writeBodyA at h
  split at h <;> simp_all

/-- A step of WRITE is its acceptance, the record of its misuse, or one of the configured variant's body. -/
theorem execWrite_cases {b : Byte} (h : execWrite b s = .next t) :
    (s.upc = .idle ∧ t = accept (.write b) s) ∨
    (∃ c, s.upc = .raise c ∧ t = raiseThenBody c (.write b) s) ∨
    (s.cfg.writeVariant = .b ∧ writeBodyB b s = .next t) ∨
    (s.cfg.writeVariant = .a ∧ writeBodyA b s = .next t) := by
  unfold execWrite at h
  split at h <;> simp_all

/-- Everything a step of the capture READ and READLAST share can do. -/
theorem receive_cases (h : receive s = .next t) :
    (s.upc = .poll .rif ∧ t = pollTurn .rif (.line .rdData) s) ∨
    (s.upc = .line .rdData ∧ t = goTo (.line (.wrAck s.answer)) (memRead .data s)) ∨
    closing s = .next t := by
  unfold receive at h
  split at h <;> simp_all

/-- Everything a step of READ can do. -/
theorem execRead_cases (h : execRead s = .next t) :
    (s.upc = .idle ∧ t = accept .read s) ∨
    (∃ c, s.upc = .raise c ∧ t = raiseThenBody c .read s) ∨
    (s.upc = .line .takeCount ∧ t = goTo (.poll .rif) (setPrc (decrement s.prc) s)) ∨
    (∃ d, s.upc = .line (.wrAck d) ∧ t = if s.prc = 0#16 then nackFinal d s else ackContinue d s) ∨
    receive s = .next t := by
  unfold execRead at h
  split at h <;> simp_all

/-- Everything a step of READLAST can do. -/
theorem execReadlast_cases (h : execReadlast s = .next t) :
    (s.upc = .idle ∧ t = accept .readlast s) ∨
    (∃ c, s.upc = .raise c ∧ t = raiseThenBody c .readlast s) ∨
    (s.upc = .line .takeCount ∧ t = goTo (.poll .rif) (setPrc 0#16 s)) ∨
    (∃ d, s.upc = .line (.wrAck d) ∧ t = nackFinal d s) ∨
    receive s = .next t := by
  unfold execReadlast at h
  split at h <;> simp_all

end Sys2Proof.Machine
end

