-- ==== Sys2Proof/Laws/PerInstr.lean ====
section
/-! SUPPORT. One statement about every command as syntax: its word matches its own row of the match and mask table of
30_encoding.md R93. -/

namespace Sys2Proof.Laws.RowMatch

/-- The word of `i` matches the row of R93 that `i` belongs to. -/
def Statement (i : Instr) : Prop := i.row.hits (encode i) = true

theorem init : Statement .init := by simp only [Statement]; decide

/-- The mask of Format A keeps the must-be-zero bits and the opcode. -/
theorem formatA (n : Count) (a : PeerAddr) (op : BitVec 4) :
    (n ++ 0#5 ++ a ++ op) &&& 0x0000F80F#32 = 0#28 ++ op := by
  apply BitVec.eq_of_getLsbD_eq
  intro j hj
  simp only [BitVec.getLsbD_and, BitVec.getLsbD_append]
  interval_cases j <;> simp

/-- The mask of Format D keeps the must-be-zero bits and the opcode. -/
theorem formatD (b : Byte) (op : BitVec 4) : (0#20 ++ b ++ op) &&& 0xFFFFF00F#32 = 0#28 ++ op := by
  apply BitVec.eq_of_getLsbD_eq
  intro j hj
  simp only [BitVec.getLsbD_and, BitVec.getLsbD_append]
  interval_cases j <;> simp

theorem start (a : PeerAddr) (n : Count) : Statement (.start a n) := by
  simp only [Statement, Row.hits, Instr.row, encode, formatA]; decide

theorem restart (a : PeerAddr) (n : Count) : Statement (.restart a n) := by
  simp only [Statement, Row.hits, Instr.row, encode, formatA]; decide

theorem write (b : Byte) : Statement (.write b) := by
  simp only [Statement, Row.hits, Instr.row, encode, formatD]; decide

theorem read : Statement .read := by simp only [Statement]; decide

theorem readlast : Statement .readlast := by simp only [Statement]; decide

theorem stop : Statement .stop := by simp only [Statement]; decide

end Sys2Proof.Laws.RowMatch
end

