-- ==== Sys2Proof/Laws/Run.lean ====
section
/-! SUPPORT. Chaining steps, and a whole poll loop by induction over its failing reads. -/

namespace Sys2Proof.Machine

variable {s t : State}

@[simp] theorem steps_zero (s : State) : steps 0 s = .next s := rfl

/-- One step, then the rest. -/
theorem steps_succ (k : Nat) (h : step s = .next t) : steps (k + 1) s = steps k t := by
  simp [steps, h]

/-- `j` steps, then `k` more. -/
theorem steps_add (j k : Nat) (h : steps j s = .next t) : steps (j + k) s = steps k t := by
  induction j generalizing s with
  | zero => simp only [steps_zero, Host.Outcome.next.injEq] at h; simp [h]
  | succ j ih =>
    rw [Nat.succ_add]
    simp only [steps] at h ⊢
    cases hs : step s with
    | next u => rw [hs] at h; exact ih h
    | fault r => rw [hs] at h; cases h
    | refused r => rw [hs] at h; cases h

/-- The step of a running command with no host move pending. -/
theorem step_of_busy (i : Instr) (hh : s.host = []) (hb : s.busy = true) (hd : decode s.cmd = .ok i) :
    step s = exec i s := by
  rw [step_of_no_host hh, blockStep_of_busy i hb hd]

/-- The step that accepts a presented word with no host move pending. -/
theorem step_of_presented (i : Instr) (w : Word) (hh : s.host = []) (hb : s.busy = false) (hv : s.respValid = false)
    (hp : s.port = some w) (hd : decode w = .ok i) : step s = exec i s := by
  rw [step_of_no_host hh, blockStep_of_presented i w hb hv hp hd]

/-- At a poll loop of its own a command takes one turn of it. -/
theorem exec_poll (i : Instr) (w : Wait) (u : Upc) (hu : s.upc = .poll w) (ha : afterPoll i s.cfg w = some u) :
    exec i s = .next (pollTurn w u s) := by
  cases i with
  | init => simp [afterPoll] at ha
  | start a n => cases w <;> simp [afterPoll, startPoll] at ha <;> subst ha <;> simp [exec, execStart, startBody, hu]
  | restart a n =>
    cases w <;> simp [afterPoll, startPoll] at ha <;> subst ha <;> simp [exec, execRestart, startBody, hu]
  | write b =>
    cases w <;> simp [afterPoll, writePoll] at ha
    cases hv : s.cfg.writeVariant <;> simp only [hv] at ha <;> subst ha <;>
      simp [exec, execWrite, writeBodyA, writeBodyB, hu, hv]
  | read => cases w <;> simp [afterPoll, readPoll] at ha; subst ha; simp [exec, execRead, receive, hu]
  | readlast => cases w <;> simp [afterPoll, readPoll] at ha; subst ha; simp [exec, execReadlast, receive, hu]
  | stop => cases w <;> simp [afterPoll, stopPoll] at ha; subst ha; simp [exec, execStop, hu]

/-! ## The coming answers -/

@[simp] theorem nextAnswers_nil (s : State) : NextAnswers s [] := trivial

/-- The first coming answer, and the rest after one read. -/
theorem nextAnswers_cons (s : State) (b : Byte) (bs : List Byte) :
    NextAnswers s (b :: bs) ↔ s.answer = b ∧ NextAnswers (memRead .status s) bs := Iff.rfl

/-- The coming answers depend on the list of answers and the count of reads alone. -/
theorem nextAnswers_congr (bs : List Byte) (ha : t.answers = s.answers) (hd : t.draws = s.draws) :
    NextAnswers t bs ↔ NextAnswers s bs := by
  simp [NextAnswers, ha, hd]

/-- What follows the first answers. -/
theorem answeredBy_append (xs ys : List Byte) : ∀ (as : List Byte) (d : Nat),
    answeredBy as d (xs ++ ys) ↔ answeredBy as d xs ∧ answeredBy (as.drop xs.length) (d + xs.length) ys := by
  induction xs with
  | nil => intro as d; simp [answeredBy]
  | cons x xs ih =>
    intro as d
    have : (as.tail).drop xs.length = as.drop (xs.length + 1) := by simp
    simp only [List.cons_append, answeredBy, ih, List.length_cons, this, and_assoc, Nat.add_assoc, Nat.add_comm 1]

/-- What follows the first answers, for a state that has read them. -/
theorem nextAnswers_append (xs ys : List Byte) (ha : t.answers = s.answers.drop xs.length)
    (hd : t.draws = s.draws + xs.length) (h : NextAnswers s (xs ++ ys)) : NextAnswers t ys := by
  unfold NextAnswers at h ⊢
  rw [answeredBy_append] at h
  rw [ha, hd]; exact h.2

/-- The k-th coming answer is the next one after k reads. -/
theorem nthAnswer_zero (s : State) : s.nthAnswer 0 = s.answer := by
  cases h : s.answers <;> simp [State.nthAnswer, State.answer, h]

theorem nthAnswer_memRead (r : Reg) (s : State) (k : Nat) : (memRead r s).nthAnswer k = s.nthAnswer (k + 1) := by
  cases h : s.answers <;> simp [State.nthAnswer, h, Nat.add_comm, Nat.add_left_comm]

/-! ## Poll loops -/

/-- The state after reads of STATUS answered by `bs`, with POLL_CNT at `cnt`. -/
def afterReads (bs : List Byte) (cnt : Nat) (s : State) : State :=
  { s with
    answers := s.answers.drop bs.length
    draws := s.draws + bs.length
    trace := (statusReads bs).reverse ++ s.trace
    pollCnt := cnt }

@[simp] theorem afterReads_cfg (bs : List Byte) (cnt : Nat) (s : State) : (afterReads bs cnt s).cfg = s.cfg := rfl
@[simp] theorem afterReads_prc (bs : List Byte) (cnt : Nat) (s : State) : (afterReads bs cnt s).prc = s.prc := rfl
@[simp] theorem afterReads_phase (bs : List Byte) (cnt : Nat) (s : State) : (afterReads bs cnt s).phase = s.phase := rfl
@[simp] theorem afterReads_busy (bs : List Byte) (cnt : Nat) (s : State) : (afterReads bs cnt s).busy = s.busy := rfl
@[simp] theorem afterReads_cmd (bs : List Byte) (cnt : Nat) (s : State) : (afterReads bs cnt s).cmd = s.cmd := rfl
@[simp] theorem afterReads_resp (bs : List Byte) (cnt : Nat) (s : State) : (afterReads bs cnt s).resp = s.resp := rfl
@[simp] theorem afterReads_respValid (bs : List Byte) (cnt : Nat) (s : State) : (afterReads bs cnt s).respValid = s.respValid := rfl
@[simp] theorem afterReads_fault (bs : List Byte) (cnt : Nat) (s : State) : (afterReads bs cnt s).fault = s.fault := rfl
@[simp] theorem afterReads_faultCause (bs : List Byte) (cnt : Nat) (s : State) : (afterReads bs cnt s).faultCause = s.faultCause := rfl
@[simp] theorem afterReads_upc (bs : List Byte) (cnt : Nat) (s : State) : (afterReads bs cnt s).upc = s.upc := rfl
@[simp] theorem afterReads_mem (bs : List Byte) (cnt : Nat) (s : State) : (afterReads bs cnt s).mem = s.mem := rfl
@[simp] theorem afterReads_port (bs : List Byte) (cnt : Nat) (s : State) : (afterReads bs cnt s).port = s.port := rfl
@[simp] theorem afterReads_host (bs : List Byte) (cnt : Nat) (s : State) : (afterReads bs cnt s).host = s.host := rfl
@[simp] theorem afterReads_given (bs : List Byte) (cnt : Nat) (s : State) : (afterReads bs cnt s).given = s.given := rfl
@[simp] theorem afterReads_pollCnt (bs : List Byte) (cnt : Nat) (s : State) : (afterReads bs cnt s).pollCnt = cnt := rfl
@[simp] theorem afterReads_answers (bs : List Byte) (cnt : Nat) (s : State) :
    (afterReads bs cnt s).answers = s.answers.drop bs.length := rfl
@[simp] theorem afterReads_draws (bs : List Byte) (cnt : Nat) (s : State) :
    (afterReads bs cnt s).draws = s.draws + bs.length := rfl
@[simp] theorem afterReads_trace (bs : List Byte) (cnt : Nat) (s : State) :
    (afterReads bs cnt s).trace = (statusReads bs).reverse ++ s.trace := rfl

/-- The answers that come after the reads. -/
theorem nextAnswers_afterReads (bs cs : List Byte) (cnt : Nat) (h : NextAnswers s (bs ++ cs)) :
    NextAnswers (afterReads bs cnt s) cs :=
  nextAnswers_append bs cs rfl rfl h

/-- One failing read of a poll loop. -/
theorem step_poll_fails (i : Instr) (w : Wait) (u : Upc) (hh : s.host = []) (hb : s.busy = true)
    (hd : decode s.cmd = .ok i) (hu : s.upc = .poll w) (ha : afterPoll i s.cfg w = some u)
    (hl : s.cfg.pollLimit ≠ some s.pollCnt) (hw : waitHolds s.cfg.layout w s.answer = false) :
    step s = .next (countPoll (memRead .status s)) := by
  rw [step_of_busy i hh hb hd, exec_poll i w u hu ha]
  simp [pollTurn, hl, hw]

/-- The read that ends a poll loop. -/
theorem step_poll_ends (i : Instr) (w : Wait) (u : Upc) (hh : s.host = []) (hb : s.busy = true)
    (hd : decode s.cmd = .ok i) (hu : s.upc = .poll w) (ha : afterPoll i s.cfg w = some u)
    (hl : s.cfg.pollLimit ≠ some s.pollCnt) (hw : waitHolds s.cfg.layout w s.answer = true) :
    step s = .next (goTo u (countPoll (memRead .status s))) := by
  rw [step_of_busy i hh hb hd, exec_poll i w u hu ha]
  simp [pollTurn, hl, hw]

/-- A run of failing reads inside the limit: the loop is still there, one read a step. -/
theorem steps_poll_fails (i : Instr) (w : Wait) (u : Upc) (fails : List Byte) :
    ∀ s : State, s.host = [] → s.busy = true → decode s.cmd = .ok i → s.upc = .poll w →
      afterPoll i s.cfg w = some u → NextAnswers s fails → (∀ b ∈ fails, waitHolds s.cfg.layout w b = false) →
      (∀ l, s.cfg.pollLimit = some l → s.pollCnt + fails.length ≤ l) →
      steps fails.length s = .next
        (afterReads fails (if s.cfg.pollLimit.isSome then s.pollCnt + fails.length else s.pollCnt) s) := by
  induction fails with
  | nil => intro s _ _ _ _ _ _ _ _; simp [statusReads, afterReads]
  | cons b fails ih =>
    intro s hh hb hd hu ha hn hf hl
    obtain ⟨hb0, hn'⟩ := (nextAnswers_cons s b fails).1 hn
    have hlim : s.cfg.pollLimit ≠ some s.pollCnt := fun h => by
      have := hl _ h; simp only [List.length_cons] at this; omega
    have hw : waitHolds s.cfg.layout w s.answer = false := hb0 ▸ hf b (by simp)
    rw [List.length_cons, steps_succ _ (step_poll_fails i w u hh hb hd hu ha hlim hw),
      ih (countPoll (memRead .status s)) hh hb hd hu ha ((nextAnswers_congr fails rfl rfl).2 hn')
        (fun x hx => hf x (by simp [hx])) ?_]
    · cases hp : s.cfg.pollLimit <;>
        simp [afterReads, countPoll, memRead, hp, hb0, statusReads, Nat.add_assoc, Nat.add_comm 1]
    · intro l h
      have h' : s.cfg.pollLimit = some l := h
      have := hl l h'
      simp only [List.length_cons] at this
      simp only [countPoll_pollCnt, memRead_cfg, h', Option.isSome_some, if_true, memRead_pollCnt]
      omega

/-- `waits` failing reads and one good one take a poll loop to its end, one read a step. -/
theorem steps_poll (i : Instr) (w : Wait) (u : Upc) (waits : List Byte) (g : Byte) (s : State) (hh : s.host = [])
    (hb : s.busy = true) (hd : decode s.cmd = .ok i) (hu : s.upc = .poll w) (ha : afterPoll i s.cfg w = some u)
    (hn : NextAnswers s (waits ++ [g])) (hp : PollEnds s.cfg w waits g)
    (hl : ∀ l, s.cfg.pollLimit = some l → s.pollCnt + waits.length < l) :
    ∃ cnt, steps (waits.length + 1) s = .next (goTo u (afterReads (waits ++ [g]) cnt s)) := by
  have hn1 : NextAnswers s waits := ((answeredBy_append waits [g] _ _).1 hn).1
  have h1 := steps_poll_fails i w u waits s hh hb hd hu ha hn1 hp.1 (fun l h => Nat.le_of_lt (hl l h))
  generalize hc : (if s.cfg.pollLimit.isSome then s.pollCnt + waits.length else s.pollCnt) = c at h1
  have hg : (afterReads waits c s).answer = g := (nextAnswers_afterReads waits [g] c hn).1
  have h2 : step (afterReads waits c s) = .next (goTo u (countPoll (memRead .status (afterReads waits c s)))) := by
    refine step_poll_ends i w u hh hb hd hu ha ?_ (by rw [hg]; exact hp.2)
    intro h
    have h' : s.cfg.pollLimit = some c := h
    have := hl _ h'
    simp only [h', Option.isSome_some, if_true] at hc
    omega
  refine ⟨(countPoll (memRead .status (afterReads waits c s))).pollCnt, ?_⟩
  rw [steps_add _ 1 h1, steps_succ 0 h2, steps_zero]
  simp only [countPoll, memRead, hg]
  simp [afterReads, goTo, statusReads, Nat.add_assoc]

/-! ## The two ends of a command -/

/-- The state after acceptance, and the record of a misuse, in one formula. -/
def acceptedState (i : Instr) (u : Upc) (cnt : Nat) (s : State) : State :=
  { s with
    port := none
    cmd := encode i
    busy := true
    upc := u
    pollCnt := cnt
    fault := s.fault || !legalIn i s.phase
    faultCause := if s.fault || legalIn i s.phase then s.faultCause else .phaseMisuse }

/-- A presented command is accepted, and its misuse recorded if it is one: after one step, or two, its body is next. -/
theorem steps_accept (i : Instr) (h : Presented i s) (hd : decode (encode i) = .ok i) :
    steps (1 + raiseSteps i s.phase) s =
      .next (acceptedState i (bodyEntry s.cfg i) (goTo (bodyEntry s.cfg i) s).pollCnt s) := by
  obtain ⟨hh, hp, hb, hv, hu⟩ := h
  have h1 : step s = .next (goTo (afterAccept i s) (latch (encode i) s)) := by
    rw [step_of_presented i _ hh hb hv hp hd, exec_idle i hu, accept_of_presented i _ hp hb hv]
  rcases afterAccept_cases i s with ⟨hl, ha⟩ | ⟨hl, ha⟩ <;> rw [ha] at h1
  · rw [show 1 + raiseSteps i s.phase = 0 + 1 by simp [raiseSteps, hl], steps_succ 0 h1, steps_zero]
    simp [goTo, latch, acceptedState, hl]
  · rw [show 1 + raiseSteps i s.phase = 0 + 1 + 1 by simp [raiseSteps, hl], steps_succ 1 h1]
    have h2 : step (goTo (.raise .phaseMisuse) (latch (encode i) s)) =
        .next (raiseThenBody .phaseMisuse i (goTo (.raise .phaseMisuse) (latch (encode i) s))) := by
      rw [step_of_busy i (by exact hh) rfl (by exact hd), exec_raise i _ rfl]
    rw [steps_succ 0 h2, steps_zero]
    cases hf : s.fault <;> simp [goTo, latch, acceptedState, raiseFault, raiseThenBody, hf, hl]

/-- The last update of PHASE. -/
theorem step_setPhase (i : Instr) (p : Phase) (r : Reply) (hh : s.host = []) (hb : s.busy = true)
    (hd : decode s.cmd = .ok i) (hu : s.upc = .setPhase p r) : step s = .next (goTo (.respond r) (setPhase p s)) := by
  rw [step_of_busy i hh hb hd]
  cases i <;> cases hv : s.cfg.writeVariant <;>
    simp [exec, execInit, execStart, execRestart, startBody, execWrite, writeBodyA, writeBodyB, execRead,
      execReadlast, receive, execStop, closing, hu, hv]

/-- The response. -/
theorem step_respond (i : Instr) (r : Reply) (hh : s.host = []) (hb : s.busy = true) (hd : decode s.cmd = .ok i)
    (hu : s.upc = .respond r) : step s = .next (respond r s) := by
  rw [step_of_busy i hh hb hd]
  cases i <;> cases hv : s.cfg.writeVariant <;>
    simp [exec, execInit, execStart, execRestart, startBody, execWrite, writeBodyA, writeBodyB, execRead,
      execReadlast, receive, execStop, closing, hu, hv]

/-! ## Lists of events -/

@[simp] theorem store_write (c : Config) (r : Reg) (v : Byte) (m : Memory) :
    Event.store c (.write r v) m = Memory.set m (regAddr c r) v := rfl
@[simp] theorem store_read (c : Config) (r : Reg) (v : Byte) (m : Memory) : Event.store c (.read r v) m = m := rfl
@[simp] theorem store_pin (c : Config) (p : Pin) (o : PinMode) (m : Memory) : Event.store c (.pin p o) m = m := rfl

@[simp] theorem readCount_append (xs ys : List Event) : readCount (xs ++ ys) = readCount xs + readCount ys := by
  induction xs with
  | nil => simp [readCount]
  | cons e es ih => cases e <;> simp [readCount, ih, Nat.add_assoc, Nat.add_comm 1]

/-- Reads of STATUS are all reads. -/
@[simp] theorem readCount_statusReads (bs : List Byte) : readCount (statusReads bs) = bs.length := by
  induction bs with
  | nil => rfl
  | cons b bs ih => simpa [statusReads, readCount] using ih

/-- Reads of STATUS store nothing. -/
@[simp] theorem foldl_store_statusReads (bs : List Byte) (c : Config) (m : Memory) :
    (statusReads bs).foldl (fun m e => Event.store c e m) m = m := by
  induction bs with
  | nil => rfl
  | cons b bs ih => simpa [statusReads, Event.store] using ih

@[simp] theorem statusReads_append (xs ys : List Byte) :
    statusReads (xs ++ ys) = statusReads xs ++ statusReads ys := by
  simp [statusReads]

end Sys2Proof.Machine
end

