-- ==== Sys2Proof/Tests/Slice0.lean ====
section
/-! SUPPORT. Tests: words written out bit by bit from 30_encoding.md R91, ill-formed terms each check refuses, single steps
from the vectors of 95_test_vectors.md, and for every obligation with hypotheses a concrete state that meets them. -/

namespace Sys2Proof.Machine.Tests

open Sys2Proof Sys2Proof.Machine

/-! ## Small states -/

/-- The reset state under the configuration of 95_test_vectors.md section 0, at PERIPH_BASE 0. -/
def base : State := { State.reset with cfg := configWith 20#8 0 }

/-- Between commands, with a word on the port. -/
def presented (w : Word) (p : Phase) (c : Count) (as : List Byte) : State :=
  { base with port := some w, phase := p, prc := c, answers := as }

/-- Inside a command. -/
def inside (i : Instr) (u : Upc) (c : Count) (as : List Byte) : State :=
  { base with busy := true, cmd := encode i, upc := u, phase := .addressing, prc := c, answers := as }

/-- The older design (R4). -/
def older (s : State) : State := { s with cfg := { s.cfg with busIdleWait := false } }

/-- WRITE variant A. -/
def variantA (s : State) : State := { s with cfg := { s.cfg with writeVariant := .a } }

/-- A finite POLL_LIMIT. -/
def limited (l : Nat) (s : State) : State := { s with cfg := { s.cfg with pollLimit := some l } }

/-- The next state of an outcome. -/
def next? : Result → Option State
  | .next s => some s
  | .fault _ => none
  | .refused _ => none

/-! ## Decoding: words written bit by bit from R91 -/

/-- Format N, one word for each of its four commands. -/
theorem test_decode_format_n :
    decode 0b00000000000000000000000000000001#32 = .ok .init ∧
    decode 0b00000000000000000000000000000101#32 = .ok .read ∧
    decode 0b00000000000000000000000000000110#32 = .ok .readlast ∧
    decode 0b00000000000000000000000000000111#32 = .ok .stop := by decide

/-- Format A: RCNT, five zeros, ADDR7, OP. -/
theorem test_decode_format_a :
    decode 0b00000000000000110000010100000010#32 = .ok (.start 0x50#7 3#16) ∧
    decode 0b00000000000000000000010100000010#32 = .ok (.start 0x50#7 0#16) ∧
    decode 0b11111111111111110000011111110010#32 = .ok (.start 0x7F#7 65535#16) ∧
    decode 0b00000000000000100000010100000011#32 = .ok (.restart 0x50#7 2#16) ∧
    decode 0b10000000000000000000000000010011#32 = .ok (.restart 1#7 32768#16) := by decide

/-- Format D: twenty zeros, DATA8, OP. -/
theorem test_decode_format_d :
    decode 0b00000000000000000000000100000100#32 = .ok (.write 0x10#8) ∧
    decode 0b00000000000000000000111111110100#32 = .ok (.write 0xFF#8) := by decide

/-- The illegal words of IL-1 to IL-8. -/
theorem test_decode_illegal :
    decode 0x00000000#32 = .error .badOpcode ∧ decode 0x00000008#32 = .error .badOpcode ∧
    decode 0x0000000F#32 = .error .badOpcode ∧ decode 0x00000802#32 = .error .mustBeZero ∧
    decode 0x00008003#32 = .error .mustBeZero ∧ decode 0x00001004#32 = .error .mustBeZero ∧
    decode 0x80000001#32 = .error .mustBeZero ∧ decode 0x00000015#32 = .error .mustBeZero := by decide

/-- The words of R102, the other way. -/
theorem test_encode :
    encode .init = 0x00000001#32 ∧ encode (.start 0x50#7 0#16) = 0x00000502#32 ∧
    encode (.restart 0x50#7 2#16) = 0x00020503#32 ∧ encode (.write 0x10#8) = 0x00000104#32 ∧
    encode .read = 0x00000005#32 ∧ encode .readlast = 0x00000006#32 ∧ encode .stop = 0x00000007#32 := by decide

/-- The host's entry points: the table's word is decoded, and the very next step accepts it. -/
theorem test_table_word :
    decodeTableWord 32 0x00020503 = some (.restart 0x50#7 2#16) ∧
    (next? (step (base.withFetchWord 32 0x00020503))).map (fun t => (t.cmd, t.upc)) =
      some (0x00020503#32, .raise .phaseMisuse) ∧
    (next? (step (base.withFetchWord 32 0x00000001))).map (fun t => (t.cmd, t.upc)) =
      some (0x00000001#32, .line .pinSda) := by decide

/-- R100: any case, decimal or hexadecimal, and out of range refused. -/
theorem test_assemble :
    (assemble ['r', 'e', 'S', 'T', 'A', 'R', 'T', ' ', '0', 'x', '5', '0', ',', ' ', '2']).toOption =
      some 0x00020503#32 ∧
    (assemble ['W', 'R', 'I', 'T', 'E', ' ', '2', '5', '6']).toOption = none := by decide

/-! ## Well-formedness refuses -/

/-- R93: no row for OP 0, OP 8, or a must-be-zero bit of each format. -/
theorem test_wf_word :
    legalWord 0x00000000#32 = false ∧ legalWord 0x00000008#32 = false ∧ legalWord 0x80000001#32 = false ∧
    legalWord 0x00000802#32 = false ∧ legalWord 0x00001004#32 = false ∧ legalWord 0x00000502#32 = true := by decide

/-- R100: each operand one above its range. -/
theorem test_wf_source :
    Source.wellFormed (.start 128 0) = false ∧ Source.wellFormed (.start 0 65536) = false ∧
    Source.wellFormed (.restart 128 0) = false ∧ Source.wellFormed (.restart 0 65536) = false ∧
    Source.wellFormed (.write 256) = false ∧ Source.wellFormed (.start 127 65535) = true := by decide

/-- R40: two registers at one offset. -/
theorem test_wf_layout :
    Layout.wellFormed { Layout.standard with offAddr := 0x05 } = false ∧
    Layout.wellFormed Layout.standard = true := by decide

/-- R7: POLL_LIMIT 0, or an ill-formed layout. -/
theorem test_wf_config :
    Config.wellFormed { configWith 20#8 0 with pollLimit := some 0 } = false ∧
    Config.wellFormed { configWith 20#8 0 with layout := { Layout.standard with offData := 0x03 } } = false ∧
    Config.wellFormed (configWith 20#8 0) = true := by decide

/-- The ill-formed memories: addresses out of order, and an address twice. -/
theorem test_wf_memory :
    Memory.wf [(5, 0#8), (3, 0#8)] = false ∧ Memory.wf [(3, 1#8), (3, 2#8)] = false ∧
    Memory.wf [(3, 1#8), (5, 2#8)] = true := by decide

/-! ## Single steps, from the vectors of 95_test_vectors.md -/

/-- I-1: the baud write stores 0x14 at offset 6. -/
theorem test_init_baud :
    (next? (exec .init (inside .init (.line .wrBaud) 0#16 []))).map (fun t => (t.mem, t.upc)) =
      some ([(6, 0x14#8)], .line .wrCtrla) := by decide

/-- I-3: a misuse is recorded before the body, and PRC is kept. -/
theorem test_init_misuse :
    (next? (steps 2 (presented 0x00000001#32 .writing 5#16 []))).map (fun t => (t.faultCause, t.prc, t.upc)) =
      some (.phaseMisuse, 5#16, .line .pinSda) := by decide

/-- S-3: START 0x23 with count 0 writes ADDR 46. -/
theorem test_start_address :
    (next? (exec (.start 0x23#7 0#16) (inside (.start 0x23#7 0#16) (.line .wrAddr) 0#16 []))).map (·.trace) =
      some [.write .addr 0x46#8] := by decide

/-- S-8: both error flags in s1 report ARBITRATION_LOST. -/
theorem test_start_both_errors :
    (next? (exec (.start 0x50#7 0#16) (inside (.start 0x50#7 0#16) (.line .rdS1) 0#16 [0x4F#8]))).map (·.upc) =
      some (.poll (.busIdle (.failure .arbitrationLost))) := by decide

/-- R-1: RESTART 0x50 with count 2 writes ADDR A1. -/
theorem test_restart_address :
    (next? (exec (.restart 0x50#7 2#16) (inside (.restart 0x50#7 2#16) (.line .wrAddr) 2#16 []))).map (·.trace) =
      some [.write .addr 0xA1#8] := by decide

/-- R-3: a NACK in s2 goes on to the STOP command. -/
theorem test_restart_nack :
    (next? (exec (.restart 0x23#7 0#16) (inside (.restart 0x23#7 0#16) (.line .rdS2) 0#16 [0x52#8]))).map (·.upc) =
      some (.line (.wrStop (.failure .addressNack))) := by decide

/-- W-3: arbitration loss in s1 leads to UNSETTLED. -/
theorem test_write_arbitration :
    (next? (exec (.write 0x10#8) (inside (.write 0x10#8) (.line .rdS1) 0#16 [0x4A#8]))).map (·.upc) =
      some (.setPhase .unsettled (.failure .arbitrationLost)) := by decide

/-- W-9: variant A tests no error flag. -/
theorem test_write_variant_a :
    (next? (exec (.write 0xFF#8) (variantA (inside (.write 0xFF#8) (.line .rdS1) 0#16 [0x4A#8])))).map (·.upc) =
      some (.respond (.success 0#8)) := by decide

/-- RD-4: the decrement leaves 0 at 0. -/
theorem test_read_count_zero :
    (next? (exec .read (inside .read (.line .takeCount) 0#16 []))).map (·.prc) = some 0#16 := by decide

/-- RD-2: with PRC 0 after the decrement the byte is NACKed. -/
theorem test_read_nack :
    (next? (exec .read (inside .read (.line (.wrAck 0xFF#8)) 0#16 []))).map (fun t => (t.trace, t.upc)) =
      some ([.write .ctrlb 0x04#8], .setPhase .readEnded (.success 0xFF#8)) := by decide

/-- RL-2: READLAST sets PRC to 0 at once. -/
theorem test_readlast_count :
    (next? (exec .readlast (inside .readlast (.line .takeCount) 5#16 []))).map (·.prc) = some 0#16 := by decide

/-- RL-3: the received byte is carried to the response. -/
theorem test_readlast_byte :
    (next? (exec .readlast (inside .readlast (.line .rdData) 0#16 [0x80#8]))).map (·.upc) =
      some (.line (.wrAck 0x80#8)) := by decide

/-- ST-2: the older design makes no status read. -/
theorem test_stop_older :
    (next? (exec .stop (older (inside .stop (.line (.wrStop (.success 0#8))) 0#16 [])))).map
      (fun t => (t.trace, t.upc)) = some ([.write .ctrlb 0x07#8], .setPhase .idle (.success 0#8)) := by decide

/-- ST-4: BUS BUSY (0b11) is not idle. -/
theorem test_stop_busy_is_not_idle :
    (next? (exec .stop (inside .stop (.poll (.busIdle (.success 0#8))) 0#16 [0x03#8]))).map (·.upc) =
      some (.poll (.busIdle (.success 0#8))) := by decide

/-- IL-1: the illegal word 0, accepted, recorded and answered. -/
theorem test_illegal_word :
    (next? (steps 3 (presented 0x00000000#32 .idle 0#16 []))).map (fun t => (t.resp, blkStatus t)) =
      some (0x00000050#32, 0x00000111#32) := by decide

/-! ## Witnesses: every obligation's hypotheses are met -/

/-- EncodeGivesBackEveryLegalWord, LegalWordsMatchExactlyOneRow and OperandsAreTheirFields, at the ends of the fields. -/
theorem witness_legal_words :
    decode 0xFFFF07F2#32 = .ok (.start 0x7F#7 0xFFFF#16) ∧ decode 0x00000002#32 = .ok (.start 0#7 0#16) ∧
    decode 0xFFFF07F3#32 = .ok (.restart 0x7F#7 0xFFFF#16) ∧ decode 0x00000FF4#32 = .ok (.write 0xFF#8) ∧
    decode 0x00000004#32 = .ok (.write 0#8) ∧ (Instr.row .init).hits 0x00000001#32 = true := by decide

/-- AssemblerWordsAndRanges and DividerIsFormulaOrRefused: both sides of each range. -/
theorem witness_ranges :
    (127 < 128 ∧ 65535 < 65536 ∧ 255 < 256) ∧ (128 ≤ 128 ∧ 65536 ≤ 65536 ∧ 256 ≤ 256) ∧
    dividerFormula 10 1 0 = 0 ∧ dividerFormula 520 1 0 = 255 ∧ dividerFormula 8 1 0 = -1 ∧
    dividerFormula 522 1 0 = 256 := by decide

/-- A hang like S-18 with a reset to come, and another with a fault recorded. -/
def resetting : State :=
  { inside (.start 0x50#7 0#16) (.poll .addrDone) 2#16 [] with host := [.reset], fault := true, faultCause := .phaseMisuse }

/-- ResetMoveRestoresEveryItem: every clause. -/
theorem witness_reset :
    resetting.host = .reset :: [] ∧ resetting.port = none ∧ resetting.fault = true ∧
    (next? (step resetting)).map (fun t => (t.fault, blkStatus t)) = some (false, 0#32) := by decide

/-- StatusWordFieldsAndAccess: a read and a write of BLK_STATUS. -/
theorem witness_status :
    ({ base with host := [.readStatus] } : State).host = .readStatus :: [] ∧
    ({ base with host := [.writeStatus 7#32] } : State).host = .writeStatus 7#32 :: [] ∧
    (next? (step { base with host := [.readStatus] })).map (·.given) = some [.status 0#32] := by decide

/-- StepRunsTheDecodedCommand: a running command and a presented one. -/
theorem witness_step_runs :
    (inside .stop (.respond (.success 0#8)) 0#16 []).busy = true ∧
    decode (inside .stop (.respond (.success 0#8)) 0#16 []).cmd = .ok .stop ∧
    (inside .stop (.respond (.success 0#8)) 0#16 []).host = [] ∧
    (presented 0x00000007#32 .idle 0#16 []).port = some 0x00000007#32 ∧
    (presented 0x00000007#32 .idle 0#16 []).host = [] ∧ decode 0x00000007#32 = .ok .stop ∧
    ({ presented 0x00000007#32 .idle 0#16 [] with host := [.issue 5#32] } : State).port.isSome = true ∧
    ({ presented 0x00000007#32 .idle 0#16 [] with host := [.take] } : State).respValid = false := by decide

/-- AcceptanceLatchesAndRecordsMisuse: in phase, out of phase, and out of phase with a fault standing. -/
theorem witness_acceptance :
    (presented 0x00000104#32 .writing 0#16 []).upc = .idle ∧
    (presented 0x00000104#32 .writing 0#16 []).port = some 0x00000104#32 ∧
    (presented 0x00000104#32 .writing 0#16 []).respValid = false ∧
    Phase.writing ∈ phasesOf (.write 0x10#8) ∧ Phase.idle ∉ phasesOf (.write 0x10#8) ∧
    (next? (exec (.write 0x10#8) (presented 0x00000104#32 .idle 0#16 []))).map (·.upc) =
      some (.raise .phaseMisuse) ∧
    (next? (exec (.write 0x10#8) (inside (.write 0x10#8) (.raise .phaseMisuse) 0#16 []))).map (·.faultCause) =
      some .phaseMisuse ∧
    (next? (exec (.write 0x10#8) { inside (.write 0x10#8) (.raise .phaseMisuse) 0#16 [] with
      fault := true, faultCause := .illegalCommand })).map (·.faultCause) = some .illegalCommand := by decide

/-- IllegalWordIsRecordedAndAnswered: the words of IL-1 and IL-4. -/
theorem witness_illegal :
    (presented 0x00000802#32 .idle 0#16 []).host = [] ∧
    (presented 0x00000802#32 .idle 0#16 []).port = some 0x00000802#32 ∧
    (presented 0x00000802#32 .idle 0#16 []).busy = false ∧
    decode 0x00000802#32 = .error .mustBeZero ∧ decode 0x00000000#32 = .error .badOpcode := by decide

/-- IL-13 and IL-12: a word presented while the block is busy, and before the last response is taken. -/
theorem witness_word_held :
    (next? (step { base with host := [.issue 5#32] })).map (fun t => (t.host, t.port)) = some ([], some 5#32) ∧
    (next? (step { inside .stop (.line (.wrStop (.success 0#8))) 0#16 [] with port := some 5#32 })).isSome = true ∧
    next? (step { presented 5#32 .idle 0#16 [] with respValid := true }) =
      some { presented 5#32 .idle 0#16 [] with respValid := true } := by decide

/-- FaultIsStickyUntilReset: IL-10's second word, at its misuse. -/
theorem witness_sticky :
    (next? (step { inside (.write 0x10#8) (.raise .phaseMisuse) 0#16 [] with
      fault := true, faultCause := .illegalCommand })).map (fun t => (t.fault, t.faultCause)) =
      some (true, .illegalCommand) := by decide

/-- RespondAndTake: a command at its response, and a take with a response to take. -/
theorem witness_respond_take :
    (inside .read (.respond (.success 0x5A#8)) 1#16 []).upc = .respond (.success 0x5A#8) ∧
    ({ base with host := [.take], respValid := true } : State).host = .take :: [] ∧
    ({ base with host := [.take], respValid := true } : State).respValid = true := by decide

/-- InitLines, StartAndRestartLines, WriteLines, ReadAndReadlastLines, StopLines: a state can stand at any line. -/
theorem witness_lines (i : Instr) (u : Upc) (c : Count) (as : List Byte) :
    (inside i u c as).upc = u ∧ (inside i u c as).prc = c ∧ (inside i u c as).cfg.writeVariant = .b := ⟨rfl, rfl, rfl⟩

/-- PollTurnReadsStatusAfresh: no limit, and one read left of a limit of 3. -/
theorem witness_poll_turn :
    (inside .read (.poll .rif) 1#16 [0x82#8]).upc = .poll .rif ∧
    afterPoll .read base.cfg .rif = some (.line .rdData) ∧
    (inside .read (.poll .rif) 1#16 [0x82#8]).cfg.pollLimit ≠ some 0 ∧
    (limited 3 { inside .read (.poll .rif) 1#16 [0x82#8] with pollCnt := 2 }).cfg.pollLimit ≠ some 2 := by decide

/-- A limit of `n + 1` allows `n` failing reads and a good one; no limit allows any. -/
theorem limitAllows_limited (n : Nat) (s : State) : LimitAllows (limited (n + 1) s).cfg n := by
  intro l h
  simp only [limited, Option.some.injEq] at h
  omega

/-- InitRunsToCompletion: I-1's state. -/
theorem witness_init_runs : Presented .init (presented 0x00000001#32 .uninit 0#16 []) := by
  unfold Presented; decide

/-- S-1 with the tightest limit. -/
def startOk : State := limited 2 (presented 0x00000502#32 .idle 0#16 [0x02#8, 0x42#8, 0x42#8, 0x42#8])

/-- StartOpensTheTransaction: S-1 (one waiting read, a limit of 2) and RESTART of R-1. -/
theorem witness_start_opens :
    Presented (.start 0x50#7 0#16) startOk ∧ NextAnswers startOk ([0x02#8] ++ [0x42#8, 0x42#8, 0x42#8]) ∧
    PollEnds startOk.cfg .addrDone [0x02#8] 0x42#8 ∧ LimitAllows startOk.cfg [0x02#8].length ∧
    arblost startOk.cfg.layout 0x42#8 = false ∧ buserr startOk.cfg.layout 0x42#8 = false ∧
    rxnack startOk.cfg.layout 0x42#8 = false ∧
    Presented (.restart 0x50#7 2#16) (presented 0x00020503#32 .writing 0#16 [0x82#8, 0x82#8, 0x82#8]) := by
  refine ⟨?_, ?_, ?_, limitAllows_limited 1 _, ?_⟩
  · unfold Presented; decide
  · simp [NextAnswers, answeredBy, startOk, limited, presented]
  · unfold PollEnds; decide
  · unfold Presented; decide

/-- S-5's state. -/
def startLost : State := presented 0x00000502#32 .idle 0#16 [0x4B#8, 0x4B#8, 0x03#8, 0x01#8]

/-- StartReportsArbitrationLossOrBusError: S-5 in the newer design and S-6 in the older. -/
theorem witness_start_lost :
    Presented (.start 0x50#7 0#16) startLost ∧ NextAnswers startLost ([] ++ 0x4B#8 :: 0x4B#8 :: ([0x03#8] ++ [0x01#8])) ∧
    PollEnds startLost.cfg .addrDone [] 0x4B#8 ∧ LimitAllows startLost.cfg 1 ∧
    arblost startLost.cfg.layout 0x4B#8 = true ∧ startLost.cfg.busIdleWait = true ∧
    busIdle startLost.cfg.layout 0x03#8 = false ∧ busIdle startLost.cfg.layout 0x01#8 = true ∧
    Presented (.start 0x50#7 0#16) (older startLost) ∧ (older startLost).cfg.busIdleWait = false := by
  refine ⟨?_, ?_, ?_, (by intro l h; cases h), ?_⟩
  · unfold Presented; decide
  · simp [NextAnswers, answeredBy, startLost, presented]
  · unfold PollEnds; decide
  · unfold Presented; decide

/-- S-3's state. -/
def startNack : State := presented 0x00000232#32 .idle 0#16 [0x52#8, 0x52#8, 0x52#8, 0x02#8, 0x01#8]

/-- StartReportsAddressNack: S-3 in the newer design and S-4 in the older. -/
theorem witness_start_nack :
    Presented (.start 0x23#7 0#16) startNack ∧
    NextAnswers startNack ([] ++ 0x52#8 :: 0x52#8 :: 0x52#8 :: ([0x02#8] ++ [0x01#8])) ∧
    PollEnds startNack.cfg .addrDone [] 0x52#8 ∧ LimitAllows startNack.cfg 1 ∧
    arblost startNack.cfg.layout 0x52#8 = false ∧ buserr startNack.cfg.layout 0x52#8 = false ∧
    rxnack startNack.cfg.layout 0x52#8 = true ∧ busIdle startNack.cfg.layout 0x02#8 = false ∧
    Presented (.start 0x23#7 0#16) (older startNack) ∧ (older startNack).cfg.busIdleWait = false := by
  refine ⟨?_, ?_, ?_, (by intro l h; cases h), ?_⟩
  · unfold Presented; decide
  · simp [NextAnswers, answeredBy, startNack, presented]
  · unfold PollEnds; decide
  · unfold Presented; decide

/-- W-3's state, W-1's state, and W-7's state with variant A. -/
def writeState (as : List Byte) : State := presented 0x00000104#32 .writing 0#16 as

/-- WriteVariantBRuns and WriteVariantARuns: an error in s1 (W-3), none (W-1), and variant A (W-8's answers). -/
theorem witness_write_runs :
    Presented (.write 0x10#8) (writeState [0x4A#8, 0x4A#8]) ∧ (writeState []).cfg.writeVariant = .b ∧
    NextAnswers (writeState [0x4A#8, 0x4A#8]) ([] ++ [0x4A#8, 0x4A#8]) ∧
    PollEnds base.cfg .wif [] 0x4A#8 ∧ LimitAllows base.cfg 0 ∧ arblost base.cfg.layout 0x4A#8 = true ∧
    NextAnswers (writeState [0x42#8, 0x42#8, 0x42#8]) ([] ++ [0x42#8, 0x42#8, 0x42#8]) ∧
    (variantA (writeState [])).cfg.writeVariant = .a ∧
    Presented (.write 0x10#8) (variantA (writeState [0x42#8, 0x52#8])) ∧
    NextAnswers (variantA (writeState [0x42#8, 0x52#8])) ([] ++ [0x42#8, 0x52#8]) := by
  refine ⟨?_, rfl, ?_, ?_, (by intro l h; cases h), by decide, ?_, rfl, ?_, ?_⟩
  · unfold Presented; decide
  · simp [NextAnswers, answeredBy, writeState, presented]
  · unfold PollEnds; decide
  · simp [NextAnswers, answeredBy, writeState, presented]
  · unfold Presented; decide
  · simp [NextAnswers, answeredBy, writeState, presented, variantA]

/-- RD-1's and RD-2's states. -/
def readState (w : Word) (c : Count) : State := presented w .reading c [0x82#8, 0x5A#8]

/-- ReadRunsAndDecidesTheAcknowledge at PRC 2, 1 and 0, and ReadlastRunsAndNacks. -/
theorem witness_read_runs :
    Presented .read (readState 5#32 2#16) ∧ NextAnswers (readState 5#32 2#16) ([] ++ [0x82#8, 0x5A#8]) ∧
    PollEnds base.cfg .rif [] 0x82#8 ∧ LimitAllows base.cfg 0 ∧ 1 < (readState 5#32 2#16).prc.toNat ∧
    (readState 5#32 1#16).prc.toNat ≤ 1 ∧ (readState 5#32 0#16).prc.toNat ≤ 1 ∧
    Presented .readlast (readState 6#32 5#16) ∧ NextAnswers (readState 6#32 5#16) ([] ++ [0x82#8, 0x5A#8]) := by
  refine ⟨?_, ?_, ?_, (by intro l h; cases h), by decide, by decide, by decide, ?_, ?_⟩
  · unfold Presented; decide
  · simp [NextAnswers, answeredBy, readState, presented]
  · unfold PollEnds; decide
  · unfold Presented; decide
  · simp [NextAnswers, answeredBy, readState, presented]

/-- ST-1's state. -/
def stopState : State := presented 0x00000007#32 .writing 0#16 [0x02#8, 0x01#8]

/-- StopRunsInBothDesigns: ST-1 with a limit of 2, and ST-2. -/
theorem witness_stop_runs :
    Presented .stop (limited 2 stopState) ∧ NextAnswers (limited 2 stopState) ([0x02#8] ++ [0x01#8]) ∧
    (∀ b ∈ [0x02#8], busIdle base.cfg.layout b = false) ∧ busIdle base.cfg.layout 0x01#8 = true ∧
    LimitAllows (limited 2 stopState).cfg 1 ∧
    Presented .stop (older stopState) ∧ (older stopState).cfg.busIdleWait = false := by
  refine ⟨?_, ?_, by decide, by decide, limitAllows_limited 1 _, ?_, rfl⟩
  · unfold Presented; decide
  · simp [NextAnswers, answeredBy, stopState, presented, limited]
  · unfold Presented; decide

/-- RD-7 in its poll, at a limit of 2. -/
def timingOut : State := limited 2 (inside .read (.poll .rif) 2#16 [0x02#8, 0x0A#8])

/-- FinitePollTimesOut and PollCountCounts: RD-7, and the entry to its poll. -/
theorem witness_poll_limit :
    timingOut.host = [] ∧ timingOut.busy = true ∧ decode timingOut.cmd = .ok .read ∧ timingOut.upc = .poll .rif ∧
    afterPoll .read timingOut.cfg .rif = some (.line .rdData) ∧ timingOut.cfg.pollLimit = some 2 ∧
    timingOut.pollCnt = 0 ∧ timingOut.answers = [0x02#8, 0x0A#8] ∧
    (∀ b ∈ [0x02#8, 0x0A#8], waitHolds timingOut.cfg.layout .rif b = false) ∧
    (next? (step timingOut)).map (fun t => (t.pollCnt, t.upc, t.trace)) =
      some (1, .poll .rif, [.read .status 0x02#8]) ∧
    (next? (step (limited 2 { inside .read (.line .takeCount) 3#16 [] with pollCnt := 9 }))).map
      (fun t => (t.pollCnt, t.upc)) = some (0, .poll .rif) := by decide

/-- A layout whose RIF predicate no snapshot meets does not exist, but one whose bus-idle predicate none meets does:
the mask keeps no bit and IDLE is not zero. -/
def neverIdle : State :=
  let s := inside .stop (.poll (.busIdle (.success 0#8))) 0#16 []
  { s with cfg := { s.cfg with layout := { s.cfg.layout with busMask := 0x00#8 } } }

/-- UnboundedPollCanHang: a state in which the awaited value is never read, whatever the peripheral answers. -/
theorem witness_hang :
    neverIdle.host = [] ∧ neverIdle.busy = true ∧ decode neverIdle.cmd = .ok .stop ∧
    afterPoll .stop neverIdle.cfg (.busIdle (.success 0#8)) = some (.setPhase .idle (.success 0#8)) ∧
    neverIdle.cfg.pollLimit = none ∧ NeverReads (waitHolds neverIdle.cfg.layout (.busIdle (.success 0#8))) neverIdle := by
  refine ⟨rfl, rfl, by decide, by decide, rfl, fun k => ?_⟩
  generalize neverIdle.nthAnswer k = b
  simp [waitHolds, busIdle, neverIdle, inside, base, configWith, Layout.standard]

/-- PollLeavesWhenTheFlagComes: RD-6, whose third read is the one awaited. -/
theorem witness_flag_comes :
    waitHolds base.cfg.layout .rif
      ((inside .read (.poll .rif) 2#16 [0x02#8, 0x0A#8, 0x82#8]).nthAnswer 2) = true := by decide

/-- CommandInterfaceFrame, CountAndPhaseFrame, MemoryFrame, StepMakesAtMostOneAccess: a storing step and a step that
stores nothing, outside `idle` and `respond`. -/
theorem witness_frames :
    (next? (exec .stop (inside .stop (.line (.wrStop (.success 0#8))) 0#16 []))).isSome = true ∧
    storesTo (inside .stop (.line (.wrStop (.success 0#8))) 0#16 []).upc = some .ctrlb ∧
    (next? (exec (.start 0x50#7 0#16) (inside (.start 0x50#7 0#16) (.line .setPrc) 7#16 []))).map (·.prc) =
      some 7#16 ∧
    storesTo (inside (.start 0x50#7 0#16) (.line .setPrc) 7#16 []).upc = none := by decide

/-- Inside a command, in another phase than ADDRESSING. -/
def within (i : Instr) (u : Upc) (p : Phase) (c : Count) (as : List Byte) : State := { inside i u c as with phase := p }

/-- Inv of a state at a place of its command. -/
theorem inv_within (i : Instr) (u : Upc) (p : Phase) (c : Count) (as : List Byte) (hp : p ≠ .addressing)
    (hl : atLine base.cfg i u = true) (hd : decode (encode i) = .ok i)
    (hm : ∀ j f, running (within i u p c as) = some j → u = .raise f → p ∉ phasesOf j := by intro j f _ h; cases h) :
    Inv (within i u p c as) where
  memory := rfl
  idle := fun h => by cases h
  noResponse := fun _ => rfl
  legal := fun j _ h => by
    have h' : Except.ok i = (Except.ok j : Except Reject Instr) := hd.symm.trans h
    cases h'; exact hl
  illegal := fun e _ h => by
    have h' : Except.ok i = (Except.error e : Except Reject Instr) := hd.symm.trans h
    cases h'
  misuse := hm
  cause := ⟨fun _ => rfl, fun _ => rfl⟩
  addressing := fun h => absurd h hp
  pollBound := fun l w h => by cases h

/-- FaultsAreRecordedBeforeTheBody: a misuse (W-13) and an illegal word (IL-1), each at its fault and from its
acceptance. -/
theorem witness_faults :
    Inv (within (.write 0x10#8) (.raise .phaseMisuse) .idle 0#16 []) ∧
    (next? (step (within (.write 0x10#8) (.raise .phaseMisuse) .idle 0#16 []))).map (·.faultCause) =
      some .phaseMisuse ∧
    (next? (steps 2 (presented 0x00000000#32 .idle 0#16 []))).map (·.faultCause) = some .illegalCommand ∧
    (next? (step (presented 0x00000000#32 .idle 0#16 []))).map (·.upc) = some (.raise .illegalCommand) := by
  refine ⟨inv_within _ _ _ _ _ (by decide) (by decide) (by decide) ?_, by decide, by decide, by decide⟩
  intro j f h _
  have hr : running (within (.write 0x10#8) (.raise .phaseMisuse) .idle 0#16 []) = some (.write 0x10#8) := by decide
  rw [hr] at h
  cases h
  decide

/-- READ at its data read. -/
def reading : State := within .read (.line .rdData) .reading 1#16 [0x5A#8]

/-- CountInv of that state. -/
theorem countInv_reading : CountInv reading where
  reading := by decide
  ended := by decide
  last := by decide
  nacked := by intro _ r h; cases h
  started := by
    intro a n h
    have hr : running reading = some .read := by decide
    rw [hr] at h
    rcases h with h | h <;> cases h

/-- StepKeepsTheInvariant, StepKeepsCountAndPhaseInStep, InvariantStatesNeverStop: that state meets both invariants, it
steps, and a state between commands meets them too. -/
theorem witness_invariant : Inv reading ∧ CountInv reading ∧ (next? (step reading)).isSome = true :=
  ⟨inv_within _ _ _ _ _ (by decide) (by decide) (by decide), countInv_reading, by decide⟩

/-- The line at which each command writes each register. -/
def writers : List (Instr × Line × Event) :=
  [(.read, .wrAck 0#8, .write .ctrlb 0x04#8), (.write 0xFF#8, .wrPrime, .write .ctrlb 0x02#8),
   (.init, .wrBaud, .write .baud 0x14#8), (.init, .wrCtrla, .write .ctrla 0x01#8),
   (.init, .wrStatus, .write .status 0x01#8), (.stop, .wrStop (.success 0#8), .write .ctrlb 0x07#8),
   (.start 0x50#7 3#16, .wrAddr, .write .addr 0xA1#8), (.write 0xFF#8, .wrData, .write .data 0xFF#8),
   (.readlast, .rdData, .read .data 0x5A#8), (.write 0xFF#8, .rdS1, .read .status 0x5A#8)]

/-- RegistersHaveTheirWriters, every register and both kinds of read, and NoInterruptIsEverEnabled (the second row):
states with Inv that make the access. -/
theorem witness_writers : ∀ x ∈ writers,
    Inv (within x.1 (.line x.2.1) .idle 0#16 [0x5A#8]) ∧
    (next? (step (within x.1 (.line x.2.1) .idle 0#16 [0x5A#8]))).map (·.trace) = some [x.2.2] := by
  intro x hx
  have hd : decode (encode x.1) = .ok x.1 ∧ atLine base.cfg x.1 (.line x.2.1) = true ∧
      (next? (step (within x.1 (.line x.2.1) .idle 0#16 [0x5A#8]))).map (·.trace) = some [x.2.2] := by
    revert x; decide
  exact ⟨inv_within _ _ _ _ _ (by decide) hd.2.1 hd.1, hd.2.2⟩

/-- CountHasExactlyFourWrites: the steps that change PRC, from states with Inv. -/
theorem witness_count_writes :
    Inv (within (.start 0x50#7 65535#16) (.line .setPrc) .idle 0#16 []) ∧
    (next? (step (within (.start 0x50#7 65535#16) (.line .setPrc) .idle 0#16 []))).map (·.prc) = some 65535#16 ∧
    Inv (within .read (.line .takeCount) .reading 1#16 []) ∧
    (next? (step (within .read (.line .takeCount) .reading 1#16 []))).map (·.prc) = some 0#16 ∧
    Inv (within .readlast (.line .takeCount) .reading 5#16 []) ∧
    (next? (step (within .readlast (.line .takeCount) .reading 5#16 []))).map (·.prc) = some 0#16 :=
  ⟨inv_within _ _ _ _ _ (by decide) (by decide) (by decide), by decide,
   inv_within _ _ _ _ _ (by decide) (by decide) (by decide), by decide,
   inv_within _ _ _ _ _ (by decide) (by decide) (by decide), by decide⟩

/-- ResponsesFollowTheTable: the step at which STOP responds. -/
theorem witness_response :
    Inv (within .stop (.respond (.success 0#8)) .idle 0#16 []) ∧
    (next? (step (within .stop (.respond (.success 0#8)) .idle 0#16 []))).map (fun t => (t.busy, t.resp)) =
      some (false, 0x00000001#32) :=
  ⟨inv_within _ _ _ _ _ (by decide) (by decide) (by decide), by decide⟩

/-- StepKeepsCountAndPhaseInStep's clauses between commands, and FAULT's clause of R200: RD-2's end state. -/
theorem witness_between : ({ base with phase := .readEnded } : State).busy = false ∧
    Inv { base with phase := .readEnded } ∧ CountInv { base with phase := .readEnded } := by
  refine ⟨rfl, ⟨rfl, fun _ => rfl, ?_, ?_, ?_, ?_, ⟨fun _ => rfl, fun _ => rfl⟩, ?_, ?_⟩, ⟨?_, ?_, ?_, ?_, ?_⟩⟩
  · intro h; cases h
  · intro i h; cases h
  · intro e h; cases h
  · intro i c h; cases h
  · intro h; cases h
  · intro l w h; cases h
  · decide
  · decide
  · decide
  · intro h; cases h
  · intro a n h; rcases h with h | h <;> cases h

/-- PhaseIsOnlyAShadow: two states that differ in all of the shadow state. -/
theorem witness_shadow :
    SameButShadow reading { reading with phase := .writing, fault := true, faultCause := .phaseMisuse, given := [.status 0#32] } ∧
    reading.phase ≠ .writing := ⟨rfl, by decide⟩

end Sys2Proof.Machine.Tests
end

section
/-! One turn of a poll loop below its limit: the next state in full (00_scope.md R12, 20_memory.md R63). -/

namespace Sys2Proof.Machine

/-- No poll loop of a command leads straight into a poll loop. -/
theorem afterPoll_ne_poll {i : Instr} {c : Config} {w : Wait} {u : Upc} (ha : afterPoll i c w = some u) (v : Wait) :
    u ≠ .poll v := by
  have start : startPoll w = some u → u ≠ .poll v := by cases w <;> rintro ⟨⟩ <;> simp
  have read : readPoll w = some u → u ≠ .poll v := by cases w <;> rintro ⟨⟩; simp
  cases i with
  | init => cases ha
  | start a n => exact start ha
  | restart a n => exact start ha
  | write b =>
    cases w <;> cases ha
    cases c.writeVariant <;> simp
  | read => exact read ha
  | readlast => exact read ha
  | stop => cases w <;> cases ha; simp

/-- Going on to anything but a poll loop moves the place in the command alone. -/
theorem goTo_eq_of_not_poll {u : Upc} (s : State) (h : ∀ w, u ≠ .poll w) : goTo u s = { s with upc := u } := by
  have hcnt : (goTo u s).pollCnt = s.pollCnt := goTo_pollCnt_of_not_poll u s h
  calc goTo u s = { s with upc := u, pollCnt := (goTo u s).pollCnt } := rfl
    _ = { s with upc := u } := by rw [hcnt]

/-- The read of one turn of a poll loop: one answer used up, one STATUS read on the trace, and POLL_CNT counts it under
a finite limit (R32). -/
theorem countPoll_memRead_status (s : State) :
    countPoll (memRead .status s) = { s with
      pollCnt := if s.cfg.pollLimit = none then s.pollCnt else s.pollCnt + 1
      answers := s.answers.tail
      draws := s.draws + 1
      trace := .read .status s.answer :: s.trace } := by
  cases h : s.cfg.pollLimit <;> simp [countPoll, memRead, h]

/-- Settles O29: below the limit a turn is the read, which stays in the loop or goes on to a place that is no poll loop,
so that POLL_CNT keeps the read's count. -/
theorem pollTurnReadsStatusAfresh : Obligations.PollTurnReadsStatusAfresh := by
  intro i w u s hu ha hlim
  rw [exec_poll i w u hu ha]
  obtain ⟨hmax, -⟩ | ⟨-, hw, hturn⟩ | ⟨-, hw, hturn⟩ := pollTurn_cases w u s
  · exact absurd hmax hlim
  · rw [hturn, goTo_eq_of_not_poll _ (afterPoll_ne_poll ha), countPoll_memRead_status]
    simp [hw]
  · rw [hturn, countPoll_memRead_status]
    simp [hw, ← hu]

end Sys2Proof.Machine
end

section
/-! What one step of a command is, place by place: the effect of each line of each command, where the line leads, and
the one inversion lemma of `exec` that every frame and invariant below uses. -/

namespace Sys2Proof.Machine

variable {s t : State}

/-! ## The effect of a line -/

/-- What a line of a command's pseudocode does, beside going on to the next place (R12). -/
inductive Effect where
  | none
  | pin (line : Pin)
  | write (r : Reg) (v : Byte)
  | read (r : Reg)
  | count (c : Count)
  | phase (p : Phase)

/-- The state after the effect. -/
def Effect.apply : Effect → State → State
  | .none, s => s
  | .pin line, s => pinConfig line .inputPullup s
  | .write r v, s => memWrite r v s
  | .read r, s => memRead r s
  | .count c, s => setPrc c s
  | .phase p, s => setPhase p s

@[simp] theorem Effect.apply_none (s : State) : Effect.none.apply s = s := rfl
@[simp] theorem Effect.apply_pin (p : Pin) (s : State) : (Effect.pin p).apply s = pinConfig p .inputPullup s := rfl
@[simp] theorem Effect.apply_write (r : Reg) (v : Byte) (s : State) : (Effect.write r v).apply s = memWrite r v s := rfl
@[simp] theorem Effect.apply_read (r : Reg) (s : State) : (Effect.read r).apply s = memRead r s := rfl
@[simp] theorem Effect.apply_count (c : Count) (s : State) : (Effect.count c).apply s = setPrc c s := rfl
@[simp] theorem Effect.apply_phase (p : Phase) (s : State) : (Effect.phase p).apply s = setPhase p s := rfl

@[simp] theorem Effect.apply_cfg (e : Effect) (s : State) : (e.apply s).cfg = s.cfg := by cases e <;> rfl
@[simp] theorem Effect.apply_busy (e : Effect) (s : State) : (e.apply s).busy = s.busy := by cases e <;> rfl
@[simp] theorem Effect.apply_cmd (e : Effect) (s : State) : (e.apply s).cmd = s.cmd := by cases e <;> rfl
@[simp] theorem Effect.apply_resp (e : Effect) (s : State) : (e.apply s).resp = s.resp := by cases e <;> rfl
@[simp] theorem Effect.apply_respValid (e : Effect) (s : State) : (e.apply s).respValid = s.respValid := by
  cases e <;> rfl
@[simp] theorem Effect.apply_fault (e : Effect) (s : State) : (e.apply s).fault = s.fault := by cases e <;> rfl
@[simp] theorem Effect.apply_faultCause (e : Effect) (s : State) : (e.apply s).faultCause = s.faultCause := by
  cases e <;> rfl
@[simp] theorem Effect.apply_pollCnt (e : Effect) (s : State) : (e.apply s).pollCnt = s.pollCnt := by cases e <;> rfl
@[simp] theorem Effect.apply_port (e : Effect) (s : State) : (e.apply s).port = s.port := by cases e <;> rfl
@[simp] theorem Effect.apply_host (e : Effect) (s : State) : (e.apply s).host = s.host := by cases e <;> rfl
@[simp] theorem Effect.apply_given (e : Effect) (s : State) : (e.apply s).given = s.given := by cases e <;> rfl

/-- PRC after an effect. -/
theorem Effect.apply_prc_cases (e : Effect) (s : State) :
    (e.apply s).prc = s.prc ∨ ∃ c, e = .count c ∧ (e.apply s).prc = c := by
  cases e <;> simp

/-- PHASE after an effect. -/
theorem Effect.apply_phase_cases (e : Effect) (s : State) :
    (e.apply s).phase = s.phase ∨ ∃ p, e = .phase p ∧ (e.apply s).phase = p := by
  cases e <;> simp

/-- Every effect keeps the canonical form of memory. -/
theorem Effect.wf_apply (e : Effect) (s : State) (h : Memory.wf s.mem = true) : Memory.wf (e.apply s).mem = true := by
  cases e with
  | write r v => exact Memory.wf_set _ _ v h
  | none | pin | read | count | phase => exact h

/-! ## The lines of each command -/

/-- START and RESTART, with address `a` and read count `n`. -/
def Opens (i : Instr) (a : PeerAddr) (n : Count) : Prop := i = .start a n ∨ i = .restart a n

/-- A command has one read count. -/
theorem Opens.count_unique {i : Instr} {a a' : PeerAddr} {n n' : Count} (h : Opens i a n) (h' : Opens i a' n') :
    n = n' := by
  rcases h with rfl | rfl <;> rcases h' with h | h <;> cases h <;> rfl

/-- START and RESTART have the same poll loops. -/
theorem Opens.afterPoll_eq {i : Instr} {a : PeerAddr} {n : Count} (hi : Opens i a n) (c : Config) (w : Wait) :
    afterPoll i c w = startPoll w := by
  rcases hi with rfl | rfl <;> rfl

/-- READ and READLAST. -/
def Receives (i : Instr) : Prop := i = .read ∨ i = .readlast

/-- `LineStep c prc b i l e u`: with PRC at `prc` and the next answer `b`, line `l` of command `i` has the effect `e`
and leads to `u` (R120-R180). -/
inductive LineStep (c : Config) (prc : Count) (b : Byte) : Instr → Line → Effect → Upc → Prop
  | pinSda : LineStep c prc b .init .pinSda (.pin .sda) (.line .pinScl)
  | pinScl : LineStep c prc b .init .pinScl (.pin .scl) (.line .wrBaud)
  | wrBaud : LineStep c prc b .init .wrBaud (.write .baud c.baudValue) (.line .wrCtrla)
  | wrCtrla : LineStep c prc b .init .wrCtrla (.write .ctrla c.layout.ctrlaEnableMaster) (.line .wrStatus)
  | wrStatus :
    LineStep c prc b .init .wrStatus (.write .status c.layout.statusForceIdle) (.setPhase .idle (.success 0#8))
  | setPrc {i a n} (hi : Opens i a n) :
    LineStep c prc b i .setPrc (if isRead n then .count n else .none) (.line .addressing)
  | addressing {i a n} (hi : Opens i a n) : LineStep c prc b i .addressing (.phase .addressing) (.line .wrAddr)
  | wrAddr {i a n} (hi : Opens i a n) :
    LineStep c prc b i .wrAddr (.write .addr (addressByte c.layout a (isRead n))) (.poll .addrDone)
  | startS1 {i a n} (hi : Opens i a n) : LineStep c prc b i .rdS1 (.read .status) (afterS1 c b)
  | startS2 {i a n} (hi : Opens i a n) : LineStep c prc b i .rdS2 (.read .status) (afterS2 c n b)
  | startStop {i a n} (hi : Opens i a n) (r : Reply) :
    LineStep c prc b i (.wrStop r) (.write .ctrlb c.layout.cmdStop) (.poll (.busIdle r))
  | primeB {d} (hv : c.writeVariant = .b) :
    LineStep c prc b (.write d) .wrPrime (.write .ctrlb c.layout.cmdPrime) (.line .wrData)
  | loadB {d} (hv : c.writeVariant = .b) : LineStep c prc b (.write d) .wrData (.write .data d) (.poll .wif)
  | writeS1B {d} (hv : c.writeVariant = .b) :
    LineStep c prc b (.write d) .rdS1 (.read .status) (afterWriteS1 c.layout b)
  | writeS2B {d} (hv : c.writeVariant = .b) : LineStep c prc b (.write d) .rdS2 (.read .status) (ackReply c.layout b)
  | loadA {d} (hv : c.writeVariant = .a) : LineStep c prc b (.write d) .wrData (.write .data d) (.line .wrPrime)
  | primeA {d} (hv : c.writeVariant = .a) :
    LineStep c prc b (.write d) .wrPrime (.write .ctrlb c.layout.cmdPrime) (.line .rdS1)
  | writeS1A {d} (hv : c.writeVariant = .a) : LineStep c prc b (.write d) .rdS1 (.read .status) (ackReply c.layout b)
  | decrement : LineStep c prc b .read .takeCount (.count (decrement prc)) (.poll .rif)
  | zero : LineStep c prc b .readlast .takeCount (.count 0#16) (.poll .rif)
  | capture {i} (hi : Receives i) : LineStep c prc b i .rdData (.read .data) (.line (.wrAck b))
  | nack {i} (d : Byte) (hi : i = .read ∧ prc = 0#16 ∨ i = .readlast) :
    LineStep c prc b i (.wrAck d) (.write .ctrlb c.layout.cmdNack) (.setPhase .readEnded (.success d))
  | ack (d : Byte) (hp : prc ≠ 0#16) :
    LineStep c prc b .read (.wrAck d) (.write .ctrlb c.layout.cmdAckContinue) (.respond (.success d))
  | stop (r : Reply) : LineStep c prc b .stop (.wrStop r) (.write .ctrlb c.layout.cmdStop) (afterStop c r)

/-- Everything a step of a command can be, by the place it stands at. -/
inductive ExecStep (i : Instr) (s : State) : State → Prop
  | accepted (hu : s.upc = .idle) : ExecStep i s (accept i s)
  | raised (c : FaultCause) (hu : s.upc = .raise c) : ExecStep i s (goTo (bodyEntry s.cfg i) (raiseFault c s))
  | line (l : Line) (e : Effect) (u : Upc) (hu : s.upc = .line l) (hl : LineStep s.cfg s.prc s.answer i l e u) :
    ExecStep i s (goTo u (e.apply s))
  | poll (w : Wait) (u : Upc) (hu : s.upc = .poll w) (ha : afterPoll i s.cfg w = some u) : ExecStep i s (pollTurn w u s)
  | phaseSet (p : Phase) (r : Reply) (hu : s.upc = .setPhase p r) : ExecStep i s (goTo (.respond r) (setPhase p s))
  | responded (r : Reply) (hu : s.upc = .respond r) : ExecStep i s (respond r s)

/-- The steps all commands share. -/
theorem ExecStep.of_closing {i : Instr} (h : closing s = .next t) : ExecStep i s t := by
  obtain ⟨p, r, hu, rfl⟩ | ⟨r, hu, rfl⟩ := closing_cases h
  · exact .phaseSet p r hu
  · exact .responded r hu

/-- The body START and RESTART share. -/
theorem ExecStep.of_startBody {i : Instr} {a : PeerAddr} {n : Count} (hi : Opens i a n)
    (h : startBody a n s = .next t) : ExecStep i s t := by
  obtain ⟨hu, rfl⟩ | ⟨hu, rfl⟩ | ⟨hu, rfl⟩ | ⟨hu, rfl⟩ | ⟨hu, rfl⟩ | ⟨hu, rfl⟩ | ⟨r, hu, rfl⟩ | ⟨r, hu, rfl⟩ | hc :=
    startBody_cases h
  · have hstep := ExecStep.line _ _ _ hu (.setPrc hi)
    cases hr : isRead n <;> simpa [hr] using hstep
  · exact .line _ _ _ hu (.addressing hi)
  · exact .line _ _ _ hu (.wrAddr hi)
  · exact .poll _ _ hu (hi.afterPoll_eq ..)
  · exact .line _ _ _ hu (.startS1 hi)
  · exact .line _ _ _ hu (.startS2 hi)
  · exact .line _ _ _ hu (.startStop hi r)
  · exact .poll _ _ hu (hi.afterPoll_eq ..)
  · exact .of_closing hc

/-- The capture READ and READLAST share. -/
theorem ExecStep.of_receive {i : Instr} (hi : Receives i) (h : receive s = .next t) : ExecStep i s t := by
  obtain ⟨hu, rfl⟩ | ⟨hu, rfl⟩ | hc := receive_cases h
  · exact .poll _ _ hu (by rcases hi with rfl | rfl <;> rfl)
  · exact .line _ _ _ hu (.capture hi)
  · exact .of_closing hc

/-- INIT, line by line. -/
theorem ExecStep.of_execInit (h : execInit s = .next t) : ExecStep .init s t := by
  obtain ⟨hu, rfl⟩ | ⟨c, hu, rfl⟩ | ⟨hu, rfl⟩ | ⟨hu, rfl⟩ | ⟨hu, rfl⟩ | ⟨hu, rfl⟩ | ⟨hu, rfl⟩ | hc := execInit_cases h
  · exact .accepted hu
  · exact .raised c hu
  · exact .line _ _ _ hu .pinSda
  · exact .line _ _ _ hu .pinScl
  · exact .line _ _ _ hu .wrBaud
  · exact .line _ _ _ hu .wrCtrla
  · exact .line _ _ _ hu .wrStatus
  · exact .of_closing hc

/-- WRITE, line by line, in both variants. -/
theorem ExecStep.of_execWrite {d : Byte} (h : execWrite d s = .next t) : ExecStep (.write d) s t := by
  obtain ⟨hu, rfl⟩ | ⟨c, hu, rfl⟩ | ⟨hv, hb⟩ | ⟨hv, hb⟩ := execWrite_cases h
  · exact .accepted hu
  · exact .raised c hu
  · obtain ⟨hu, rfl⟩ | ⟨hu, rfl⟩ | ⟨hu, rfl⟩ | ⟨hu, rfl⟩ | ⟨hu, rfl⟩ | hc := writeBodyB_cases hb
    · exact .line _ _ _ hu (.primeB hv)
    · exact .line _ _ _ hu (.loadB hv)
    · exact .poll _ _ hu (by simp [afterPoll, writePoll, hv])
    · exact .line _ _ _ hu (.writeS1B hv)
    · exact .line _ _ _ hu (.writeS2B hv)
    · exact .of_closing hc
  · obtain ⟨hu, rfl⟩ | ⟨hu, rfl⟩ | ⟨hu, rfl⟩ | ⟨hu, rfl⟩ | hc := writeBodyA_cases hb
    · exact .poll _ _ hu (by simp [afterPoll, writePoll, hv])
    · exact .line _ _ _ hu (.loadA hv)
    · exact .line _ _ _ hu (.primeA hv)
    · exact .line _ _ _ hu (.writeS1A hv)
    · exact .of_closing hc

/-- READ, line by line. -/
theorem ExecStep.of_execRead (h : execRead s = .next t) : ExecStep .read s t := by
  obtain ⟨hu, rfl⟩ | ⟨c, hu, rfl⟩ | ⟨hu, rfl⟩ | ⟨d, hu, rfl⟩ | hr := execRead_cases h
  · exact .accepted hu
  · exact .raised c hu
  · exact .line _ _ _ hu .decrement
  · split
    · next hp => exact .line _ _ _ hu (.nack d (.inl ⟨rfl, hp⟩))
    · next hp => exact .line _ _ _ hu (.ack d hp)
  · exact .of_receive (.inl rfl) hr

/-- READLAST, line by line. -/
theorem ExecStep.of_execReadlast (h : execReadlast s = .next t) : ExecStep .readlast s t := by
  obtain ⟨hu, rfl⟩ | ⟨c, hu, rfl⟩ | ⟨hu, rfl⟩ | ⟨d, hu, rfl⟩ | hr := execReadlast_cases h
  · exact .accepted hu
  · exact .raised c hu
  · exact .line _ _ _ hu .zero
  · exact .line _ _ _ hu (.nack d (.inr rfl))
  · exact .of_receive (.inr rfl) hr

/-- STOP, line by line. -/
theorem ExecStep.of_execStop (h : execStop s = .next t) : ExecStep .stop s t := by
  obtain ⟨hu, rfl⟩ | ⟨c, hu, rfl⟩ | ⟨r, hu, rfl⟩ | ⟨r, hu, rfl⟩ | hc := execStop_cases h
  · exact .accepted hu
  · exact .raised c hu
  · exact .line _ _ _ hu (.stop r)
  · exact .poll _ _ hu rfl
  · exact .of_closing hc

/-- The inversion lemma of `exec`: a step of any command is one of its places' steps. -/
theorem ExecStep.of_exec {i : Instr} (h : exec i s = .next t) : ExecStep i s t := by
  cases i with
  | init => exact of_execInit h
  | start a n =>
    obtain ⟨hu, rfl⟩ | ⟨c, hu, rfl⟩ | hb := execStart_cases h
    · exact .accepted hu
    · exact .raised c hu
    · exact of_startBody (.inl rfl) hb
  | restart a n =>
    obtain ⟨hu, rfl⟩ | ⟨c, hu, rfl⟩ | hb := execRestart_cases h
    · exact .accepted hu
    · exact .raised c hu
    · exact of_startBody (.inr rfl) hb
  | write d => exact of_execWrite h
  | read => exact of_execRead h
  | readlast => exact of_execReadlast h
  | stop => exact of_execStop h

end Sys2Proof.Machine
end

section
/-! What a step of a command leaves unchanged (10_state.md R20, R22, R27, R29). -/

namespace Sys2Proof.Machine

variable {s t : State}

/-! ## The parts of a step -/

/-- A turn of a poll loop moves PHASE, POLL_CNT and the place, and otherwise only reads STATUS. -/
theorem pollTurn_frame (w : Wait) (u : Upc) (s : State) :
    (pollTurn w u s).cfg = s.cfg ∧ (pollTurn w u s).prc = s.prc ∧ (pollTurn w u s).busy = s.busy ∧
    (pollTurn w u s).cmd = s.cmd ∧ (pollTurn w u s).resp = s.resp ∧ (pollTurn w u s).respValid = s.respValid ∧
    (pollTurn w u s).fault = s.fault ∧ (pollTurn w u s).faultCause = s.faultCause ∧ (pollTurn w u s).mem = s.mem ∧
    (pollTurn w u s).port = s.port ∧ (pollTurn w u s).host = s.host ∧ (pollTurn w u s).given = s.given := by
  obtain ⟨-, h⟩ | ⟨-, -, h⟩ | ⟨-, -, h⟩ := pollTurn_cases w u s <;> simp [h]

/-- Without a limit a turn of a poll loop does not count. -/
theorem pollTurn_pollCnt_of_unlimited (w : Wait) (u : Upc) (h : s.cfg.pollLimit = none) :
    (pollTurn w u s).pollCnt = s.pollCnt := by
  obtain ⟨hl, -⟩ | ⟨-, -, ht⟩ | ⟨-, -, ht⟩ := pollTurn_cases w u s
  · simp [h] at hl
  · rw [ht, goTo_pollCnt_of_unlimited _ _ (by simpa using h)]; simp [h]
  · simp [ht, h]

/-- Acceptance moves CMD, BUSY, the port, the place and POLL_CNT, and nothing else. -/
theorem accept_frame (i : Instr) (s : State) :
    (accept i s).cfg = s.cfg ∧ (accept i s).prc = s.prc ∧ (accept i s).phase = s.phase ∧
    (accept i s).resp = s.resp ∧ (accept i s).respValid = s.respValid ∧ (accept i s).fault = s.fault ∧
    (accept i s).faultCause = s.faultCause ∧ (accept i s).mem = s.mem ∧ (accept i s).trace = s.trace ∧ (accept i s).host = s.host ∧
    (accept i s).given = s.given := by
  obtain ⟨h, -⟩ | ⟨w, -, -, -, h⟩ := accept_cases i s <;> simp [h]

/-- Without a limit acceptance leaves POLL_CNT. -/
theorem accept_pollCnt_of_unlimited (i : Instr) (h : s.cfg.pollLimit = none) : (accept i s).pollCnt = s.pollCnt := by
  obtain ⟨ha, -⟩ | ⟨w, -, -, -, ha⟩ := accept_cases i s
  · rw [ha]
  · rw [ha, goTo_pollCnt_of_unlimited _ (latch w s) h, latch_pollCnt]

/-- No step of a command touches the configuration or the host's side. -/
theorem ExecStep.host_frame {i : Instr} (h : ExecStep i s t) :
    t.cfg = s.cfg ∧ t.host = s.host ∧ t.given = s.given := by
  cases h with
  | accepted => simp [accept_frame]
  | poll => simp [pollTurn_frame]
  | raised | line | phaseSet | responded => simp

/-- CMD and the port move at acceptance only. -/
theorem ExecStep.cmd_frame {i : Instr} (h : ExecStep i s t) (hu : s.upc ≠ .idle) :
    t.cmd = s.cmd ∧ t.port = s.port := by
  cases h with
  | accepted hidle => exact absurd hidle hu
  | poll => simp [pollTurn_frame]
  | raised | line | phaseSet | responded => simp

/-- The fault record moves at `raise Fault` only. -/
theorem ExecStep.fault_frame {i : Instr} (h : ExecStep i s t) (hu : ∀ c, s.upc ≠ .raise c) :
    t.fault = s.fault ∧ t.faultCause = s.faultCause := by
  cases h with
  | accepted => simp [accept_frame]
  | raised c hraise => exact absurd hraise (hu c)
  | poll => simp [pollTurn_frame]
  | line | phaseSet | responded => simp

/-- The response moves at `respond` only. -/
theorem ExecStep.resp_frame {i : Instr} (h : ExecStep i s t) (hu : ∀ r, s.upc ≠ .respond r) :
    t.resp = s.resp ∧ t.respValid = s.respValid := by
  cases h with
  | accepted => simp [accept_frame]
  | poll => simp [pollTurn_frame]
  | responded r hresp => exact absurd hresp (hu r)
  | raised | line | phaseSet => simp

/-- BUSY moves at acceptance and at `respond` only. -/
theorem ExecStep.busy_frame {i : Instr} (h : ExecStep i s t) (hidle : s.upc ≠ .idle)
    (hu : ∀ r, s.upc ≠ .respond r) : t.busy = s.busy := by
  cases h with
  | accepted hu' => exact absurd hu' hidle
  | poll => simp [pollTurn_frame]
  | responded r hresp => exact absurd hresp (hu r)
  | raised | line | phaseSet => simp

/-- Without a limit no step of a command moves POLL_CNT. -/
theorem ExecStep.pollCnt_frame {i : Instr} (h : ExecStep i s t) (hl : s.cfg.pollLimit = none) :
    t.pollCnt = s.pollCnt := by
  cases h with
  | accepted => exact accept_pollCnt_of_unlimited i hl
  | poll w u => exact pollTurn_pollCnt_of_unlimited w u hl
  | responded => rfl
  | raised | line | phaseSet => rw [goTo_pollCnt_of_unlimited _ _ (by simpa using hl)]; simp

/-- Settles O45: the frames of the command interface, one lemma per group of fields. -/
theorem commandInterfaceFrame : Obligations.CommandInterfaceFrame := by
  intro i s t h
  have hstep := ExecStep.of_exec h
  obtain ⟨hcfg, hhost, hgiven⟩ := hstep.host_frame
  exact ⟨hcfg, hhost, hgiven, hstep.cmd_frame, hstep.fault_frame, hstep.resp_frame, hstep.busy_frame,
    hstep.pollCnt_frame⟩

/-! ## PRC and PHASE -/

/-- The count lines are the only ones that store to PRC: START's and RESTART's when they read, and READ's and
READLAST's (R22). -/
theorem LineStep.count_cases {c : Config} {prc : Count} {b : Byte} {i : Instr} {l : Line} {u : Upc} {k : Count}
    (h : LineStep c prc b i l (.count k) u) :
    (l = .setPrc ∧ ∃ a n, Opens i a n ∧ isRead n = true ∧ k = n) ∨
    (l = .takeCount ∧ (i = .read ∧ k = Machine.decrement prc ∨ i = .readlast ∧ k = 0#16)) := by
  generalize he : Effect.count k = e at h
  cases h with
  | @setPrc i a n hi =>
    cases hn : isRead n with
    | false => simp [hn] at he
    | true =>
      obtain rfl : k = n := by simpa [hn] using he
      exact .inl ⟨rfl, a, k, hi, hn, rfl⟩
  | decrement => cases he; simp
  | zero => cases he; simp
  | _ => cases he

/-- The only line that stores to PHASE is START's and RESTART's entry (R27). -/
theorem LineStep.phase_cases {c : Config} {prc : Count} {b : Byte} {i : Instr} {l : Line} {u : Upc} {p : Phase}
    (h : LineStep c prc b i l (.phase p) u) : l = .addressing ∧ p = .addressing := by
  generalize he : Effect.phase p = e at h
  cases h with
  | @setPrc i a n hi => cases hn : isRead n <;> simp [hn] at he
  | addressing => cases he; simp
  | _ => cases he

/-- A step of a command that moves PRC is at a count line. -/
theorem ExecStep.prc_cases {i : Instr} (h : ExecStep i s t) :
    t.prc = s.prc ∨
    (s.upc = .line .setPrc ∧ ∃ a n, Opens i a n ∧ isRead n = true ∧ t.prc = n) ∨
    (s.upc = .line .takeCount ∧ (i = .read ∧ t.prc = decrement s.prc ∨ i = .readlast ∧ t.prc = 0#16)) := by
  cases h with
  | accepted => simp [accept_frame]
  | poll => simp [pollTurn_frame]
  | raised | phaseSet | responded => simp
  | line l e u hu hl =>
    obtain hkeep | ⟨k, rfl, hk⟩ := e.apply_prc_cases s
    · exact .inl hkeep
    · obtain ⟨rfl, a, n, hi, hn, rfl⟩ | ⟨rfl, hi⟩ := hl.count_cases
      · exact .inr (.inl ⟨hu, a, _, hi, hn, hk⟩)
      · exact .inr (.inr ⟨hu, by simpa [hk] using hi⟩)

/-- A step of a command that moves PHASE is at a PHASE line, at START's or RESTART's entry, or a timeout. -/
theorem ExecStep.phase_cases {i : Instr} (h : ExecStep i s t) :
    t.phase = s.phase ∨ (∃ p r, s.upc = .setPhase p r ∧ t.phase = p) ∨
    (s.upc = .line .addressing ∧ t.phase = .addressing) ∨
    (∃ w, s.upc = .poll w ∧ s.cfg.pollLimit = some s.pollCnt ∧ t.phase = .unsettled) := by
  cases h with
  | accepted => simp [accept_frame]
  | raised | responded => simp
  | phaseSet p r hu => exact .inr (.inl ⟨p, r, hu, rfl⟩)
  | poll w u hu =>
    obtain ⟨hl, ht⟩ | ⟨-, -, ht⟩ | ⟨-, -, ht⟩ := pollTurn_cases w u s
    · exact .inr (.inr (.inr ⟨w, hu, hl, by simp [ht]⟩))
    · simp [ht]
    · simp [ht]
  | line l e u hu hl =>
    obtain hkeep | ⟨p, rfl, hp⟩ := e.apply_phase_cases s
    · exact .inl hkeep
    · obtain ⟨rfl, rfl⟩ := hl.phase_cases
      exact .inr (.inr (.inl ⟨hu, hp⟩))

/-- Settles O46: PRC moves at count lines only, PHASE as R27 lists. -/
theorem countAndPhaseFrame : Obligations.CountAndPhaseFrame := by
  intro i s t h
  have hstep := ExecStep.of_exec h
  refine ⟨?_, ?_, ?_, hstep.phase_cases⟩
  · intro hi
    obtain hkeep | ⟨-, a, n, hopens, -⟩ | ⟨-, hrecv⟩ := hstep.prc_cases
    · exact hkeep
    · rcases hopens with rfl | rfl <;> simp at hi
    · rcases hrecv with ⟨rfl, -⟩ | ⟨rfl, -⟩ <;> simp at hi
  · rintro ⟨a, n, hi, hn⟩
    obtain hkeep | ⟨hu, a', n', hopens, hread, -⟩ | ⟨-, hrecv⟩ := hstep.prc_cases
    · exact hkeep
    · obtain rfl : n = n' := Opens.count_unique hi hopens
      rcases hn with hn | rfl
      · exact absurd hu hn
      · simp [isRead] at hread
    · rcases hrecv with ⟨rfl, -⟩ | ⟨rfl, -⟩ <;> simp at hi
  · intro hi hu
    obtain hkeep | ⟨-, a, n, hopens, -⟩ | ⟨hcount, -⟩ := hstep.prc_cases
    · exact hkeep
    · rcases hopens with rfl | rfl <;> simp at hi
    · exact absurd hcount hu

end Sys2Proof.Machine
end

section
/-! The whole machine's step: the host's move, or a step of the block under the host's remaining moves. -/

namespace Sys2Proof.Machine

variable {s t : State}

/-- The host's moves that are no reset: they touch the host's side and RESP_VALID, which they can only clear. -/
def HostOnly (s t : State) : Prop :=
  t = { s with host := t.host, port := t.port, given := t.given, respValid := t.respValid } ∧
    (s.respValid = false → t.respValid = false)

/-- A step is the block's, a reset, or a host move that leaves the block alone. -/
theorem step_split (h : step s = .next t) :
    (∃ ms, blockStep { s with host := ms } = .next t) ∨
    (∃ ms, s.host = .reset :: ms ∧ t = blockReset { s with host := ms }) ∨ HostOnly s t := by
  have hkind := step_cases h
  obtain he | ⟨ms, -, he⟩ | ⟨w, ms, -, -, he⟩ | ⟨ms, -, -, he⟩ | ⟨ms, -, he⟩ | ⟨w, ms, -, he⟩ | ⟨ms, hh, he⟩ :=
    hostTurn_cases s <;> simp only [he, Bool.true_eq_false, Bool.false_eq_true, false_and, true_and, false_or, or_false]
      at hkind
  · exact .inl ⟨s.host, hkind⟩
  · exact .inl ⟨ms, hkind⟩
  · exact .inr (.inr (by simp [HostOnly, hkind]))
  · exact .inr (.inr (by simp [HostOnly, hkind]))
  · exact .inr (.inr (by simp [HostOnly, hkind]))
  · exact .inr (.inr (by simp [HostOnly, hkind]))
  · exact .inr (.inl ⟨ms, hh, hkind⟩)

/-- A step that is no reset is the block's or a host move that leaves the block alone. -/
theorem step_split_of_no_reset (h : step s = .next t) (hr : ∀ ms, s.host ≠ .reset :: ms) :
    (∃ ms, blockStep { s with host := ms } = .next t) ∨ HostOnly s t := by
  obtain hb | ⟨ms, hh, -⟩ | ho := step_split h
  · exact .inl hb
  · exact absurd hh (hr ms)
  · exact .inr ho

/-- The word the block works on is CMD while BUSY, and otherwise the presented word once the response is taken. -/
theorem fetch_cases {w : Word} (h : fetch s = some w) :
    (s.busy = true ∧ s.cmd = w) ∨ (s.busy = false ∧ s.respValid = false ∧ s.port = some w) := by
  unfold fetch at h
  cases hb : s.busy <;> cases hv : s.respValid <;> simp_all

/-- What the block's step can be: nothing, a step of a command, the acceptance of an illegal word, the record of its
fault, or its response. -/
theorem blockStep_split (h : blockStep s = .next t) :
    t = s ∨
    (∃ w i, fetch s = some w ∧ decode w = .ok i ∧ ExecStep i s t) ∨
    (∃ w e, s.busy = false ∧ s.respValid = false ∧ s.port = some w ∧ decode w = .error e ∧ t = acceptIllegal w s) ∨
    (∃ e c, s.busy = true ∧ decode s.cmd = .error e ∧ s.upc = .raise c ∧ t = raiseThenRespond c s) ∨
    (∃ e r, s.busy = true ∧ decode s.cmd = .error e ∧ s.upc = .respond r ∧ t = respond r s) := by
  obtain ⟨-, he⟩ | ⟨w, i, hf, hd, he⟩ | ⟨w, e, hf, hd, he⟩ := blockStep_cases s <;> rw [he] at h
  · exact .inl (Host.Outcome.next.inj h).symm
  · exact .inr (.inl ⟨w, i, hf, hd, .of_exec h⟩)
  · obtain ⟨hb, rfl⟩ | ⟨hb, hv, hp⟩ := fetch_cases hf
    · simp only [illegalStep, hb, if_true] at h
      obtain ⟨c, hu, ht⟩ | ⟨r, hu, ht⟩ := illegalTurn_cases h
      · exact .inr (.inr (.inr (.inl ⟨e, c, hb, hd, hu, ht⟩)))
      · exact .inr (.inr (.inr (.inr ⟨e, r, hb, hd, hu, ht⟩)))
    · simp only [illegalStep, hb, Bool.false_eq_true, if_false, Host.Outcome.next.injEq] at h
      exact .inr (.inr (.inl ⟨w, e, hb, hv, hp, hd, h.symm⟩))

/-! ## The fault record -/

/-- The block's step keeps a fault that stands. -/
theorem blockStep_keeps_fault (h : blockStep s = .next t) (hf : s.fault = true) :
    t.fault = true ∧ t.faultCause = s.faultCause := by
  obtain rfl | ⟨w, i, -, -, he⟩ | ⟨w, e, -, -, -, -, rfl⟩ | ⟨e, c, -, -, -, rfl⟩ | ⟨e, r, -, -, -, rfl⟩ :=
    blockStep_split h
  · exact ⟨hf, rfl⟩
  · by_cases hu : ∃ c, s.upc = .raise c
    · cases he with
      | raised c => simp [hf]
      | _ => simp_all
    · have hkeep := he.fault_frame (by simpa using hu)
      exact ⟨hkeep.1.trans hf, hkeep.2⟩
  · exact ⟨hf, rfl⟩
  · simp [hf]
  · exact ⟨hf, rfl⟩

/-- Settles O21: the host's moves do not touch the fault record, and the block's step keeps one that stands. -/
theorem faultIsStickyUntilReset : Obligations.FaultIsStickyUntilReset := by
  refine ⟨fun s t h hr hf => ?_, rfl, rfl⟩
  obtain ⟨ms, hb⟩ | ho := step_split_of_no_reset h hr
  · exact blockStep_keeps_fault (s := { s with host := ms }) hb hf
  · rw [ho.1]; exact ⟨hf, rfl⟩

/-! ## POLL_CNT -/

/-- A step of a command that comes to a poll loop it was not in starts POLL_CNT at 0 under a finite limit. -/
theorem ExecStep.pollCnt_of_enters {i : Instr} {w : Wait} {l : Nat} (h : ExecStep i s t)
    (hl : s.cfg.pollLimit = some l) (hu : s.upc ≠ .poll w) (ht : t.upc = .poll w) : t.pollCnt = 0 := by
  have enter : ∀ (u : Upc) (x : State), x.cfg = s.cfg → (goTo u x).upc = .poll w → (goTo u x).pollCnt = 0 := by
    intro u x hx hgo
    obtain rfl : u = .poll w := hgo
    exact goTo_poll_pollCnt w x l (hx ▸ hl)
  cases h with
  | accepted =>
    obtain ⟨ha, -⟩ | ⟨v, -, -, -, ha⟩ := accept_cases i s <;> rw [ha] at ht ⊢
    · exact absurd ht hu
    · exact enter _ _ rfl ht
  | raised | line | phaseSet => exact enter _ _ (by simp) ht
  | responded => cases ht
  | poll v u hv ha =>
    obtain ⟨-, hp⟩ | ⟨-, -, hp⟩ | ⟨-, -, hp⟩ := pollTurn_cases v u s <;> rw [hp] at ht ⊢
    · cases ht
    · exact absurd ht (afterPoll_ne_poll ha w)
    · exact absurd ht hu

/-- A status read of a poll loop is counted under a finite limit. -/
theorem pollTurn_pollCnt_of_read {i : Instr} {w : Wait} {u : Upc} {l : Nat} {b : Byte}
    (ha : afterPoll i s.cfg w = some u) (hl : s.cfg.pollLimit = some l)
    (ht : (pollTurn w u s).trace = .read .status b :: s.trace) : (pollTurn w u s).pollCnt = s.pollCnt + 1 := by
  obtain ⟨-, hp⟩ | ⟨-, -, hp⟩ | ⟨-, -, hp⟩ := pollTurn_cases w u s <;> rw [hp] at ht ⊢
  · simp at ht
  · rw [goTo_pollCnt_of_not_poll _ _ (afterPoll_ne_poll ha)]
    simp [hl]
  · simp [hl]

/-- The block's step that comes to a poll loop it was not in starts POLL_CNT at 0 under a finite limit. -/
theorem blockStep_pollCnt_of_enters {w : Wait} {l : Nat} (h : blockStep s = .next t) (hl : s.cfg.pollLimit = some l)
    (hu : s.upc ≠ .poll w) (ht : t.upc = .poll w) : t.pollCnt = 0 := by
  obtain rfl | ⟨v, i, -, -, he⟩ | ⟨v, e, -, -, -, -, rfl⟩ | ⟨e, c, -, -, -, rfl⟩ | ⟨e, r, -, -, -, rfl⟩ :=
    blockStep_split h
  · exact absurd ht hu
  · exact he.pollCnt_of_enters hl hu ht
  · cases ht
  · cases ht
  · cases ht

/-- A status read of the block's step in a poll loop is counted under a finite limit. -/
theorem blockStep_pollCnt_of_read {w : Wait} {l : Nat} {b : Byte} (h : blockStep s = .next t)
    (hl : s.cfg.pollLimit = some l) (hu : s.upc = .poll w) (ht : t.trace = .read .status b :: s.trace) :
    t.pollCnt = s.pollCnt + 1 := by
  obtain rfl | ⟨v, i, -, -, he⟩ | ⟨v, e, -, -, -, -, rfl⟩ | ⟨e, c, -, -, hr, -⟩ | ⟨e, r, -, -, hr, -⟩ :=
    blockStep_split h
  · simp at ht
  · cases he with
    | poll v u hv ha => exact pollTurn_pollCnt_of_read ha hl ht
    | accepted hv | raised c hv | line _ _ _ hv | phaseSet _ _ hv | responded _ hv => rw [hu] at hv; cases hv
  · simp [acceptIllegal] at ht
  · rw [hu] at hr; cases hr
  · rw [hu] at hr; cases hr

/-- Without a limit the block's step does not move POLL_CNT. -/
theorem blockStep_pollCnt_of_unlimited (h : blockStep s = .next t) (hl : s.cfg.pollLimit = none) :
    t.pollCnt = s.pollCnt := by
  obtain rfl | ⟨w, i, -, -, he⟩ | ⟨w, e, -, -, -, -, rfl⟩ | ⟨e, c, -, -, -, rfl⟩ | ⟨e, r, -, -, -, rfl⟩ :=
    blockStep_split h
  · rfl
  · exact he.pollCnt_frame hl
  · exact goTo_pollCnt_of_unlimited _ (latch w s) hl
  · rw [raiseThenRespond_eq, goTo_pollCnt_of_unlimited _ _ (by simpa using hl), raiseFault_pollCnt]
  · rfl

/-- Settles O41: POLL_CNT by the kind of the step; the status word and the response have no field of it. -/
theorem pollCountCounts : Obligations.PollCountCounts := by
  refine ⟨?_, ?_, ?_, fun _ _ _ => ⟨rfl, rfl⟩⟩
  · intro s t w l h hl hu ht
    obtain ⟨ms, hb⟩ | ⟨ms, -, rfl⟩ | ho := step_split h
    · exact blockStep_pollCnt_of_enters (s := { s with host := ms }) hb hl hu ht
    · cases ht
    · rw [ho.1] at ht; exact absurd ht hu
  · intro s t w l b h hl hu ht
    obtain ⟨ms, hb⟩ | ⟨ms, -, rfl⟩ | ho := step_split h
    · exact blockStep_pollCnt_of_read (s := { s with host := ms }) hb hl hu ht
    · simp at ht
    · rw [ho.1] at ht; simp at ht
  · intro s t h hl hr
    obtain ⟨ms, hb⟩ | ho := step_split_of_no_reset h hr
    · exact blockStep_pollCnt_of_unlimited (s := { s with host := ms }) hb hl
    · rw [ho.1]

end Sys2Proof.Machine
end

section
/-! The invariant of the block, `Inv`: every place of a command leads to a place of it, and every step keeps the
invariant. -/

namespace Sys2Proof.Machine

variable {s t : State}

/-! ## Places lead to places -/

/-- The running command is the one CMD stands for while BUSY. -/
theorem running_eq_some {i : Instr} : running s = some i ↔ s.busy = true ∧ decode s.cmd = .ok i := by
  unfold running
  cases s.busy <;> cases decode s.cmd <;> simp [Except.toOption]

theorem running_of_not_busy (h : s.busy = false) : running s = none := by
  simp [running, h]

theorem running_of_illegal {e : Reject} (h : decode s.cmd = .error e) : running s = none := by
  simp [running, h, Except.toOption]

@[simp] theorem running_goTo (u : Upc) (s : State) : running (goTo u s) = running s := rfl

theorem isStart_of_opens {i : Instr} {a : PeerAddr} {n : Count} (hi : Opens i a n) : isStart i = true := by
  rcases hi with rfl | rfl <;> rfl

/-! What START and RESTART have in common, with their design's parameters. -/

theorem carriedReply_of_opens {i : Instr} {a : PeerAddr} {n : Count} (hi : Opens i a n) (c : Config) (r : Reply) :
    carriedReply c i r = (c.busIdleWait && addressFailure r) := by
  rcases hi with rfl | rfl <;> rfl

theorem endPhase_of_opens {i : Instr} {a : PeerAddr} {n : Count} (hi : Opens i a n) (c : Config) (p : Phase)
    (r : Reply) :
    endPhase c i p r =
      (p == openedPhase n && r == .success 0#8 || p == failedPhase c && addressFailure r) := by
  rcases hi with rfl | rfl <;> rfl

theorem hasPoll_busIdle_of_opens {i : Instr} {a : PeerAddr} {n : Count} (hi : Opens i a n) (c : Config) (r : Reply) :
    hasPoll c i (.busIdle r) = (c.busIdleWait && (c.busIdleWait && addressFailure r)) := by
  rcases hi with rfl | rfl <;> rfl

/-- The cause an error snapshot is reported with is one of the failures of START (R132). -/
@[simp] theorem addressFailure_errorCause (l : Layout) (b : Byte) :
    addressFailure (.failure (errorCause l b)) = true := by
  unfold errorCause; split <;> rfl

/-- The cause an error snapshot is reported with is one of the failures of WRITE (R152). -/
@[simp] theorem writeFailure_errorCause (l : Layout) (b : Byte) : writeFailure (.failure (errorCause l b)) = true := by
  unfold errorCause; split <;> rfl

/-- Acceptance and the record of a misuse lead to a place of the command. -/
theorem atLine_bodyEntry (c : Config) (i : Instr) : atLine c i (bodyEntry c i) = true := by
  cases i with
  | write b => unfold bodyEntry writeEntry; cases c.writeVariant <;> rfl
  | _ => rfl

/-- What s1 decides is a place of START and RESTART (R132). -/
theorem atLine_afterS1 {i : Instr} {a : PeerAddr} {n : Count} (hi : Opens i a n) (c : Config) (b : Byte) :
    atLine c i (afterS1 c b) = true := by
  unfold afterS1 addressError
  split_ifs with herr hwait
  · simp [atLine, hasPoll_busIdle_of_opens hi, hwait]
  · simp [atLine, endPhase_of_opens hi, failedPhase, hwait]
  · simp [atLine, hasLine, isStart_of_opens hi]

/-- What s2 decides is a place of START and RESTART (R133, R134). -/
theorem atLine_afterS2 {i : Instr} {a : PeerAddr} {n : Count} (hi : Opens i a n) (c : Config) (b : Byte) :
    atLine c i (afterS2 c n b) = true := by
  have hnack : addressFailure (.failure .addressNack) = true := rfl
  unfold afterS2 addressNack
  split_ifs with hn hwait
  · simp [atLine, hasLine, carriedReply_of_opens hi, hwait, hnack]
  · simp [atLine, endPhase_of_opens hi, failedPhase, hwait, hnack]
  · simp [atLine, endPhase_of_opens hi]

/-- What s1 decides is a place of WRITE variant B (R152). -/
theorem atLine_afterWriteS1 (d : Byte) (c : Config) (b : Byte) (hv : c.writeVariant = .b) :
    atLine c (.write d) (afterWriteS1 c.layout b) = true := by
  unfold afterWriteS1
  cases errorFlagged c.layout b <;> simp [atLine, hasLine, endPhase, isStart, isWrite, hv]

/-- What the acknowledge bit decides is a place of WRITE (R152, R153). -/
theorem atLine_ackReply (d : Byte) (c : Config) (b : Byte) : atLine c (.write d) (ackReply c.layout b) = true := by
  unfold ackReply
  cases rxnack c.layout b <;> simp [atLine, replyAllowed]

/-- A line of a command leads to a place of it. -/
theorem LineStep.atLine {c : Config} {prc : Count} {b : Byte} {i : Instr} {l : Line} {e : Effect} {u : Upc}
    (h : LineStep c prc b i l e u) (hl : hasLine c i l = true) : atLine c i u = true := by
  cases h with
  | startS1 hi => exact atLine_afterS1 hi c b
  | startS2 hi => exact atLine_afterS2 hi c b
  | writeS1B hv => exact atLine_afterWriteS1 _ c b hv
  | writeS2B | writeS1A => exact atLine_ackReply _ c b
  | setPrc hi | addressing hi | wrAddr hi => rcases hi with rfl | rfl <;> rfl
  | startStop hi r => simp_all [hasLine, carriedReply_of_opens hi, Machine.atLine, hasPoll_busIdle_of_opens hi]
  | loadB hv => simp [Machine.atLine, hasPoll, afterPoll, writePoll]
  | capture hi => rcases hi with rfl | rfl <;> rfl
  | nack d hi => rcases hi with ⟨rfl, -⟩ | rfl <;> simp [Machine.atLine, endPhase, Reply.success]
  | ack d => simp [Machine.atLine, replyAllowed, Reply.success]
  | stop r =>
    unfold afterStop
    cases hw : c.busIdleWait <;>
      simp_all [hasLine, carriedReply, Machine.atLine, hasPoll, afterPoll, stopPoll, endPhase]
  | _ => rfl

/-- A line leads to no `raise Fault`. -/
theorem LineStep.ne_raise {c : Config} {prc : Count} {b : Byte} {i : Instr} {l : Line} {e : Effect} {u : Upc}
    (h : LineStep c prc b i l e u) (f : FaultCause) : u ≠ .raise f := by
  cases h with
  | startS1 => unfold afterS1 addressError; split_ifs <;> simp
  | startS2 => unfold afterS2 addressNack; split_ifs <;> simp
  | writeS1B => unfold afterWriteS1; split_ifs <;> simp
  | writeS2B | writeS1A => unfold ackReply; split_ifs <;> simp
  | stop => unfold afterStop; split_ifs <;> simp
  | _ => simp

/-- A line of START or RESTART leads on inside the part where PHASE is ADDRESSING, but for the count line (R25). -/
theorem LineStep.inAddressPhase {c : Config} {prc : Count} {b : Byte} {i : Instr} {l : Line} {e : Effect} {u : Upc}
    (h : LineStep c prc b i l e u) (hi : isStart i = true) (hl : l ≠ .setPrc) : inAddressPhase u = true := by
  cases h with
  | setPrc => exact absurd rfl hl
  | addressing | wrAddr | startStop => rfl
  | startS1 => unfold afterS1 addressError; split_ifs <;> rfl
  | startS2 => unfold afterS2 addressNack; split_ifs <;> rfl
  | capture hr => rcases hr with rfl | rfl <;> cases hi
  | nack d hr => rcases hr with ⟨rfl, -⟩ | rfl <;> cases hi
  | _ => cases hi

/-- The places a poll loop leads to when its flag comes. -/
theorem afterPoll_cases {c : Config} {i : Instr} {w : Wait} {u : Upc} (ha : afterPoll i c w = some u) :
    u = .line .rdS1 ∨ u = .line .wrData ∨ u = .line .rdData ∨ ∃ r, u = .setPhase .idle r := by
  cases i <;> cases w <;> cases ha
  case write.wif => cases c.writeVariant <;> simp
  all_goals simp

/-- The first place of a body is no `raise Fault`. -/
theorem bodyEntry_ne_raise (c : Config) (i : Instr) (f : FaultCause) : bodyEntry c i ≠ .raise f := by
  obtain ⟨l, h⟩ | ⟨h, -⟩ := bodyEntry_cases c i <;> simp [h]

/-- Where a poll loop of a command leads when its flag comes is a place of the command. -/
theorem atLine_afterPoll {c : Config} {i : Instr} {w : Wait} {u : Upc} (hp : hasPoll c i w = true)
    (ha : afterPoll i c w = some u) : atLine c i u = true := by
  have start : ∀ {j : Instr} {a : PeerAddr} {n : Count}, Opens j a n → hasPoll c j w = true →
      startPoll w = some u → atLine c j u = true := by
    intro j a n hj hp ha
    cases w with
    | addrDone => cases ha; simp [atLine, hasLine, isStart_of_opens hj]
    | busIdle r =>
      cases ha
      simp_all [atLine, hasPoll_busIdle_of_opens hj, endPhase_of_opens hj, failedPhase]
    | wif | rif => cases ha
  have receive : ∀ {j : Instr}, Receives j → readPoll w = some u → atLine c j u = true := by
    intro j hj ha
    rcases hj with rfl | rfl <;> cases w <;> cases ha <;> rfl
  cases i with
  | init => cases ha
  | start a n => exact start (.inl rfl) hp ha
  | restart a n => exact start (.inr rfl) hp ha
  | write d => cases w <;> cases ha; cases c.writeVariant <;> rfl
  | read => exact receive (.inl rfl) ha
  | readlast => exact receive (.inr rfl) ha
  | stop => cases w <;> cases ha; simp_all [atLine, hasPoll, carriedReply, endPhase]

/-- A poll loop that can time out belongs to a command that may report it (R99). -/
theorem replyAllowed_timeout {c : Config} {i : Instr} {w : Wait} (hp : hasPoll c i w = true)
    (hl : c.pollLimit.isSome = true) : replyAllowed c i (.failure .timeout) = true := by
  cases i with
  | init => simp [hasPoll, afterPoll] at hp
  | stop => cases w <;> simp_all [hasPoll, afterPoll, stopPoll, replyAllowed, timeoutReply]
  | start | restart | write | read | readlast => simp [replyAllowed, timeoutReply, hl]

/-- The reply that follows a command's last update of PHASE is one it may give. -/
theorem replyAllowed_of_endPhase {c : Config} {i : Instr} {p : Phase} {r : Reply} (h : endPhase c i p r = true) :
    replyAllowed c i r = true := by
  cases i <;> simp only [endPhase, replyAllowed, Bool.and_eq_true, Bool.or_eq_true] at h ⊢ <;> tauto

/-- No command ends in ADDRESSING (R27). -/
theorem endPhase_addressing (c : Config) (i : Instr) (r : Reply) : endPhase c i .addressing r = false := by
  have opened : ∀ n, openedPhase n ≠ .addressing := fun n => by unfold openedPhase; split <;> simp
  have failed : failedPhase c ≠ .addressing := by unfold failedPhase; split <;> simp
  cases i <;> simp [endPhase, (opened _).symm, failed.symm]

end Sys2Proof.Machine
end

section
/-! Every step keeps `Inv`: the three shapes a state with `Inv` can have, and the step into each. -/

namespace Sys2Proof.Machine

variable {s t : State}

/-- PHASE is ADDRESSING only from the address write to the outcome (R25). -/
theorem Inv.phase_ne_addressing (h : Inv s) (hu : inAddressPhase s.upc = false) : s.phase ≠ .addressing := by
  intro hp
  exact absurd (h.addressing hp).1 (by simp [hu])

/-- A running command stands at a place of its own. -/
theorem Inv.atLine_of_running {i : Instr} (h : Inv s) (hr : running s = some i) : atLine s.cfg i s.upc = true :=
  h.legal i (running_eq_some.mp hr).1 (running_eq_some.mp hr).2

/-- Going on to a place of the running command. -/
theorem inv_goTo {i : Instr} {u : Upc} {x : State} (hm : Memory.wf x.mem = true) (hr : running x = some i)
    (hv : x.respValid = false) (hat : atLine x.cfg i u = true) (hmis : ∀ c, u = .raise c → x.phase ∉ phasesOf i)
    (hc : x.fault = false ↔ x.faultCause = .none)
    (hp : x.phase = .addressing → inAddressPhase u = true ∧ isStart i = true) : Inv (goTo u x) := by
  obtain ⟨hb, hd⟩ := running_eq_some.mp hr
  refine
    { memory := hm, idle := ?_, noResponse := fun _ => hv, legal := ?_, illegal := ?_, misuse := ?_, cause := hc,
      addressing := fun hph => ⟨(hp hph).1, i, hr, (hp hph).2⟩, pollBound := ?_ }
  · intro hnb; simp [hb] at hnb
  · intro j _ hj
    obtain rfl : i = j := by simpa [hd] using hj
    exact hat
  · intro e _ he; simp [hd] at he
  · intro j c hj hu
    obtain rfl : i = j := by simpa [hr] using hj
    exact hmis c hu
  · intro l w hl hu
    obtain rfl : u = .poll w := hu
    simp [goTo_poll_pollCnt w x l hl]

/-- Going on to a place of an illegal word. -/
theorem inv_goTo_illegal {e : Reject} {u : Upc} {x : State} (hm : Memory.wf x.mem = true) (hb : x.busy = true)
    (hd : decode x.cmd = .error e) (hv : x.respValid = false)
    (hu : u = .raise .illegalCommand ∨ u = .respond (.failure .illegalCommand))
    (hc : x.fault = false ↔ x.faultCause = .none) (hp : x.phase ≠ .addressing) : Inv (goTo u x) := by
  refine
    { memory := hm, idle := ?_, noResponse := fun _ => hv, legal := ?_, illegal := fun _ _ _ => hu, misuse := ?_,
      cause := hc, addressing := fun hph => absurd hph hp, pollBound := ?_ }
  · intro hnb; simp [hb] at hnb
  · intro j _ hj; simp [hd] at hj
  · intro j c hj; simp [running_of_illegal hd] at hj
  · rintro l w - rfl; simp at hu

/-- Between commands. -/
theorem inv_between {x : State} (hm : Memory.wf x.mem = true) (hb : x.busy = false) (hu : x.upc = .idle)
    (hc : x.fault = false ↔ x.faultCause = .none) (hp : x.phase ≠ .addressing) : Inv x where
  memory := hm
  idle := fun _ => hu
  noResponse := by simp [hb]
  legal := by simp [hb]
  illegal := by simp [hb]
  misuse := by simp [running_of_not_busy hb]
  cause := hc
  addressing := fun hph => absurd hph hp
  pollBound := by simp [hu]

/-- A recorded fault has a cause. -/
theorem raiseFault_cause_iff {c : FaultCause} (hc : c ≠ .none) (h : s.fault = false ↔ s.faultCause = .none) :
    (raiseFault c s).fault = false ↔ (raiseFault c s).faultCause = .none := by
  cases hf : s.fault <;> simp_all

/-- The acceptance of a command. -/
theorem inv_accept {i : Instr} {w : Word} (h : Inv s) (hb : s.busy = false) (hv : s.respValid = false)
    (hd : decode w = .ok i) : Inv (goTo (afterAccept i s) (latch w s)) := by
  have hp : s.phase ≠ .addressing := h.phase_ne_addressing (by simp [h.idle hb, inAddressPhase])
  refine inv_goTo h.memory (running_eq_some.mpr ⟨rfl, hd⟩) hv ?_ ?_ h.cause (absurd · hp)
  · obtain ⟨-, hu⟩ | ⟨-, hu⟩ := afterAccept_cases i s <;> rw [hu]
    · exact atLine_bodyEntry _ i
    · rfl
  · intro c hu
    obtain ⟨-, he⟩ | ⟨hl, -⟩ := afterAccept_cases i s
    · exact absurd (he.symm.trans hu) (bodyEntry_ne_raise _ i c)
    · simp [mem_phasesOf, hl]

/-- A turn of a poll loop of the running command. -/
theorem inv_pollTurn {i : Instr} {w : Wait} {u : Upc} (h : Inv s) (hr : running s = some i) (hu : s.upc = .poll w)
    (ha : afterPoll i s.cfg w = some u) : Inv (pollTurn w u s) := by
  have hplace : hasPoll s.cfg i w = true := by simpa [hu, atLine] using h.atLine_of_running hr
  have hv := h.noResponse (running_eq_some.mp hr).1
  obtain ⟨hl, ht⟩ | ⟨-, -, ht⟩ | ⟨hl, -, ht⟩ := pollTurn_cases w u s <;> rw [ht]
  · exact inv_goTo h.memory hr hv (replyAllowed_timeout hplace (by simp [hl])) (by simp) h.cause (by simp)
  · refine inv_goTo h.memory hr hv (atLine_afterPoll hplace ha) ?_ h.cause ?_
    · intro c hc
      obtain rfl | rfl | rfl | ⟨r, rfl⟩ := afterPoll_cases ha <;> cases hc
    · intro hp
      obtain ⟨-, j, hj, hstart⟩ := h.addressing hp
      obtain rfl : i = j := by simpa [hr] using hj
      obtain rfl | rfl | rfl | ⟨r, rfl⟩ := afterPoll_cases ha <;> exact ⟨rfl, hstart⟩
  · exact { h with
      memory := h.memory
      pollBound := by
        intro l v hlim hv
        have := h.pollBound l v hlim hv
        simp at hlim
        simp [hlim] at hl ⊢
        omega }

/-- A step of the running command. -/
theorem ExecStep.keeps_inv {i : Instr} (he : ExecStep i s t) (h : Inv s) (hr : running s = some i) : Inv t := by
  have hat := h.atLine_of_running hr
  have hv := h.noResponse (running_eq_some.mp hr).1
  cases he with
  | accepted hu => simp [hu, Machine.atLine] at hat
  | raised c hu =>
    obtain rfl : c = .phaseMisuse := by simpa [hu, Machine.atLine] using hat
    refine inv_goTo (by simpa using h.memory) (by simpa [running] using hr) (by simpa using hv) ?_ ?_
      (raiseFault_cause_iff (by simp) h.cause) ?_
    · simpa using atLine_bodyEntry s.cfg i
    · exact fun c hc => absurd hc (bodyEntry_ne_raise _ i c)
    · intro hp; exact absurd (by simpa using hp) (h.phase_ne_addressing (by simp [hu, Machine.inAddressPhase]))
  | line l e u hu hl =>
    have hhas : hasLine s.cfg i l = true := by simpa [hu, Machine.atLine] using hat
    refine inv_goTo (e.wf_apply s h.memory) (by simpa [running] using hr) (by simpa using hv)
      (by simpa using hl.atLine hhas) ?_ (by simpa using h.cause) ?_
    · exact fun c hc => absurd hc (hl.ne_raise c)
    · intro hp
      obtain hkeep | ⟨p, rfl, hset⟩ := e.apply_phase_cases s
      · obtain ⟨hin, j, hj, hstart⟩ := h.addressing (hkeep ▸ hp)
        obtain rfl : i = j := by simpa [hr] using hj
        exact ⟨hl.inAddressPhase hstart (by rintro rfl; simp [hu, Machine.inAddressPhase] at hin), hstart⟩
      · obtain ⟨rfl, -⟩ := hl.phase_cases
        exact ⟨hl.inAddressPhase hhas (by simp), hhas⟩
  | poll w u hu ha => exact inv_pollTurn h hr hu ha
  | phaseSet p r hu =>
    have hend : endPhase s.cfg i p r = true := by simpa [hu, Machine.atLine] using hat
    refine inv_goTo h.memory hr hv (replyAllowed_of_endPhase hend) (by simp) h.cause ?_
    rintro rfl
    simp [endPhase_addressing] at hend
  | responded r hu =>
    exact inv_between h.memory rfl rfl h.cause (h.phase_ne_addressing (by simp [hu, Machine.inAddressPhase]))

/-- What the block's step can be under the invariant: nothing, the acceptance of a command, a step of the running one,
or one of the three steps of an illegal word. -/
theorem Inv.blockStep_split (h : Inv s) (hs : blockStep s = .next t) :
    t = s ∨
    (∃ w i, s.busy = false ∧ s.respValid = false ∧ decode w = .ok i ∧ t = goTo (afterAccept i s) (latch w s)) ∨
    (∃ i, running s = some i ∧ ExecStep i s t) ∨
    (∃ w e, s.busy = false ∧ s.respValid = false ∧ decode w = .error e ∧ t = acceptIllegal w s) ∨
    (∃ e, s.busy = true ∧ decode s.cmd = .error e ∧ s.upc = .raise .illegalCommand ∧
      t = raiseThenRespond .illegalCommand s) ∨
    (∃ e r, s.busy = true ∧ decode s.cmd = .error e ∧ s.upc = .respond r ∧ t = respond r s) := by
  obtain rfl | ⟨w, i, hf, hd, he⟩ | ⟨w, e, hb, hv, -, hd, ht⟩ | ⟨e, c, hb, hd, hu, ht⟩ | ⟨e, r, hb, hd, hu, ht⟩ :=
    Machine.blockStep_split hs
  · exact .inl rfl
  · obtain ⟨hb, rfl⟩ | ⟨hb, hv, hport⟩ := fetch_cases hf
    · exact .inr (.inr (.inl ⟨i, running_eq_some.mpr ⟨hb, hd⟩, he⟩))
    · have hidle := h.idle hb
      cases he with
      | accepted => exact .inr (.inl ⟨w, i, hb, hv, hd, accept_of_presented i w hport hb hv⟩)
      | _ => simp_all
  · exact .inr (.inr (.inr (.inl ⟨w, e, hb, hv, hd, ht⟩)))
  · obtain rfl : c = .illegalCommand := by simpa [hu] using h.illegal e hb hd
    exact .inr (.inr (.inr (.inr (.inl ⟨e, hb, hd, hu, ht⟩))))
  · exact .inr (.inr (.inr (.inr (.inr ⟨e, r, hb, hd, hu, ht⟩))))

/-- The block's step keeps the invariant. -/
theorem blockStep_keeps_inv (h : Inv s) (hs : blockStep s = .next t) : Inv t := by
  obtain rfl | ⟨w, i, hb, hv, hd, rfl⟩ | ⟨i, hr, he⟩ | ⟨w, e, hb, hv, hd, rfl⟩ | ⟨e, hb, hd, hu, rfl⟩ |
    ⟨e, r, hb, hd, hu, rfl⟩ := h.blockStep_split hs
  · exact h
  · exact inv_accept h hb hv hd
  · exact he.keeps_inv h hr
  · exact inv_goTo_illegal h.memory rfl hd hv (.inl rfl) h.cause
      (h.phase_ne_addressing (by simp [h.idle hb, inAddressPhase]))
  · exact inv_goTo_illegal (by simpa using h.memory) (by simpa using hb) (by simpa using hd)
      (by simpa using h.noResponse hb) (.inr rfl) (raiseFault_cause_iff (by simp) h.cause)
      (by simpa using h.phase_ne_addressing (by simp [hu, inAddressPhase]))
  · exact inv_between h.memory rfl rfl h.cause (h.phase_ne_addressing (by simp [hu, inAddressPhase]))

/-- A host move that is no reset keeps the invariant. -/
theorem HostOnly.keeps_inv (ho : HostOnly s t) (h : Inv s) : Inv t := by
  rw [ho.1]
  exact { h with noResponse := fun hb => ho.2 (h.noResponse hb) }

/-- Settles O52: the block's step, a reset and every other host move keep the invariant. -/
theorem stepKeepsTheInvariant : Obligations.StepKeepsTheInvariant := by
  intro s t h hs
  obtain ⟨ms, hb⟩ | ⟨ms, -, rfl⟩ | ho := step_split hs
  · exact blockStep_keeps_inv (s := { s with host := ms }) { h with } hb
  · exact inv_between h.memory rfl rfl (by simp) (by simp)
  · exact ho.keeps_inv h

end Sys2Proof.Machine
end

section
/-! Every step keeps `CountInv`, what PRC and PHASE say of each other.  It is proved through `CountSettled`, which holds
wherever no command is between its count line and its end. -/

namespace Sys2Proof.Machine

variable {s t : State}

/-- PRC is nonzero in READING and zero in READ_ENDED (R22, R25). -/
structure CountSettled (s : State) : Prop where
  reading : s.phase = .reading → s.prc ≠ 0#16
  ended : s.phase = .readEnded → s.prc = 0#16

/-- The clauses of `CountInv` about places say nothing before the count line and after the end of a command. -/
theorem countInv_of_settled (h : CountSettled s)
    (ht : ∀ i, running s = some i → Receives i → countTaken s.upc = false)
    (hs : ∀ i, running s = some i → isStart i = true → countStored s.upc = false) : CountInv s where
  reading := fun hp hz => absurd hz (h.reading hp)
  ended := fun hp hn => absurd (h.ended hp) hn
  last := fun hr hu => by simp [ht _ hr (.inr rfl)] at hu
  nacked := fun hr r hu => by simpa [hu, countTaken] using ht _ hr (.inl rfl)
  started := by
    rintro a n (hr | hr) - hu
    · simp [hs _ hr rfl] at hu
    · simp [hs _ hr rfl] at hu

/-- Where no command runs, `CountSettled` is all that `CountInv` says. -/
theorem countInv_of_not_running (h : CountSettled s) (hr : running s = none) : CountInv s :=
  countInv_of_settled h (by simp [hr]) (by simp [hr])

/-- `CountInv` settles PRC and PHASE but for READ and READLAST after their count line and for START and RESTART right
after theirs. -/
theorem CountInv.settled (h : CountInv s) (ht : ∀ i, running s = some i → Receives i → countTaken s.upc = false)
    (hs : ∀ i, running s = some i → isStart i = true → s.upc ≠ .line .addressing) : CountSettled s where
  reading := by
    intro hp hz
    obtain ⟨hu, hr | hr⟩ := h.reading hp hz
    · simp [ht _ hr (.inl rfl)] at hu
    · simp [ht _ hr (.inr rfl)] at hu
  ended := by
    intro hp
    by_contra hn
    obtain ⟨hu, i, hr, hi⟩ := h.ended hp hn
    exact hs i hr hi hu

theorem CountInv.settled_of_not_running (h : CountInv s) (hr : running s = none) : CountSettled s :=
  h.settled (by simp [hr]) (by simp [hr])

/-- A step from place to place that moves neither PRC nor PHASE. -/
theorem CountInv.advance {i : Instr} {u : Upc} {x : State} (h : CountInv s) (hr : running s = some i)
    (hx : running x = running s) (hprc : x.prc = s.prc) (hph : x.phase = s.phase) (hadd : s.upc ≠ .line .addressing)
    (htake : Receives i → countTaken u = countTaken s.upc)
    (hnack : i = .read → ∀ r, u = .setPhase .readEnded r → s.prc = 0#16)
    (hstore : isStart i = true → countStored s.upc = true) : CountInv (goTo u x) where
  reading := by
    intro hp hz
    obtain ⟨hu, hrecv⟩ := h.reading (hph ▸ hp) (hprc ▸ hz)
    have hi : Receives i := by rcases hrecv with hj | hj <;> simp_all [Receives]
    exact ⟨(htake hi).trans hu, by simpa [hx] using hrecv⟩
  ended := fun hp hn => absurd (h.ended (hph ▸ hp) (hprc ▸ hn)).1 hadd
  last := by
    intro hj hu
    obtain rfl : i = .readlast := by simpa [hx, hr] using hj
    exact hprc.trans (h.last hr ((htake (.inr rfl)).symm.trans hu))
  nacked := by
    intro hj r hu
    obtain rfl : i = .read := by simpa [hx, hr] using hj
    exact hprc.trans (hnack rfl r hu)
  started := by
    intro a n hj hn hu
    simp only [running_goTo, hx] at hj
    have hi : Opens i a n := hj.imp (by simpa [hr] using ·) (by simpa [hr] using ·)
    exact hprc.trans (h.started a n hj hn (hstore (isStart_of_opens hi)))

/-! ## The steps of a command -/

theorem not_receives_of_isStart {i : Instr} (hi : isStart i = true) : ¬ Receives i := by
  rintro (rfl | rfl) <;> cases hi

/-- The first place of a body is before the count line. -/
theorem count_bodyEntry (c : Config) (i : Instr) :
    countTaken (bodyEntry c i) = false ∧ (isStart i = true → countStored (bodyEntry c i) = false) := by
  cases i with
  | write b => cases hv : c.writeVariant <;> simp [bodyEntry, writeEntry, countTaken, isStart, hv]
  | _ => simp [bodyEntry, countTaken, countStored, isStart]

/-- Acceptance leads to a place before the count line. -/
theorem count_afterAccept (i : Instr) (s : State) :
    countTaken (afterAccept i s) = false ∧ (isStart i = true → countStored (afterAccept i s) = false) := by
  obtain ⟨-, hu⟩ | ⟨-, hu⟩ := afterAccept_cases i s <;> rw [hu]
  · exact count_bodyEntry s.cfg i
  · exact ⟨rfl, fun _ => rfl⟩

/-- Going on to a place before the count line, to the response, or to any place of a command without a count line. -/
theorem countInv_goTo {i : Instr} {u : Upc} {x : State} (h : CountSettled x) (hr : running x = some i)
    (ht : Receives i → countTaken u = false) (hs : isStart i = true → countStored u = false) :
    CountInv (goTo u x) := by
  refine countInv_of_settled ⟨h.reading, h.ended⟩ ?_ ?_ <;> intro j hj hkind <;>
    obtain rfl : i = j := by simpa [hr] using hj
  · exact ht hkind
  · exact hs hkind

/-- The count line of START and RESTART. -/
theorem countInv_storeCount {i : Instr} {a : PeerAddr} {n : Count} (h : CountSettled s) (hi : Opens i a n)
    (hr : running s = some i) :
    CountInv (goTo (.line .addressing) ((if isRead n then Effect.count n else .none).apply s)) := by
  have hrun : running ((if isRead n then Effect.count n else .none).apply s) = running s := by simp [running]
  refine ⟨?_, fun _ _ => ⟨rfl, i, hrun.trans hr, isStart_of_opens hi⟩, by simp [countTaken], by simp, ?_⟩
  · intro hp hz
    cases hn : isRead n with
    | false => exact absurd (by simpa [hn] using hz) (h.reading (by simpa [hn] using hp))
    | true =>
      have hz : n = 0#16 := by simpa [hn] using hz
      simp [hz, isRead] at hn
  · intro a' n' hj hn' _
    rw [running_goTo, hrun, hr] at hj
    obtain rfl : n = n' := hi.count_unique (hj.imp Option.some.inj Option.some.inj)
    simp [hn']

/-- The count line of READ and READLAST. -/
theorem countInv_takeCount {i : Instr} {c : Count} (h : CountSettled s) (hr : running s = some i) (hi : Receives i)
    (hzero : s.prc = 0#16 → c = 0#16) (hlast : i = .readlast → c = 0#16) :
    CountInv (goTo (.poll .rif) (setPrc c s)) where
  reading := fun _ _ => ⟨rfl, hi.imp (by rintro rfl; exact hr) (by rintro rfl; exact hr)⟩
  ended := fun hp hn => absurd (hzero (h.ended hp)) hn
  last := fun hj _ => hlast (Option.some.inj (hr.symm.trans hj))
  nacked := by simp
  started := by
    intro a n hj
    have : Opens i a n := hj.imp (Option.some.inj <| hr.symm.trans ·) (Option.some.inj <| hr.symm.trans ·)
    exact absurd hi (not_receives_of_isStart (isStart_of_opens this))

/-- READING is opened by START and RESTART with a nonzero count only (R134). -/
theorem endPhase_reading {c : Config} {i : Instr} {r : Reply} (h : endPhase c i .reading r = true) :
    ∃ a n, Opens i a n ∧ isRead n = true := by
  have opened : ∀ n, (Phase.reading == openedPhase n) = true → isRead n = true := by
    intro n; unfold openedPhase; split <;> simp_all
  have failed : (Phase.reading == failedPhase c) = false := by unfold failedPhase; split <;> rfl
  cases i with
  | start a n => exact ⟨a, n, .inl rfl, opened n (by simp_all [endPhase])⟩
  | restart a n => exact ⟨a, n, .inr rfl, opened n (by simp_all [endPhase])⟩
  | init | write | read | readlast | stop => simp [endPhase] at h

/-- READ_ENDED is where READ and READLAST end (R160, R170). -/
theorem endPhase_readEnded {c : Config} {i : Instr} {r : Reply} (h : endPhase c i .readEnded r = true) :
    Receives i := by
  have opened : ∀ n, (Phase.readEnded == openedPhase n) = false := by intro n; unfold openedPhase; split <;> rfl
  have failed : (Phase.readEnded == failedPhase c) = false := by unfold failedPhase; split <;> rfl
  cases i with
  | read => exact .inl rfl
  | readlast => exact .inr rfl
  | init | start | restart | write | stop => simp [endPhase, opened, failed] at h

/-- A command's last update of PHASE settles it with PRC. -/
theorem countSettled_phaseSet {i : Instr} {p : Phase} {r : Reply} (h : CountInv s) (hr : running s = some i)
    (hu : s.upc = .setPhase p r) (hend : endPhase s.cfg i p r = true) : CountSettled (setPhase p s) where
  reading := by
    rintro rfl
    obtain ⟨a, n, hi, hn⟩ := endPhase_reading hend
    have hprc : s.prc = n :=
      h.started a n (by rcases hi with rfl | rfl <;> simp [hr]) hn (by simp [hu, countStored])
    simpa [hprc, isRead] using hn
  ended := by
    rintro rfl
    obtain rfl | rfl := endPhase_readEnded hend
    · exact h.nacked hr r hu
    · exact h.last hr (by simp [hu, countTaken])

/-- A turn of a poll loop. -/
theorem countInv_pollTurn {i : Instr} {w : Wait} {u : Upc} (h : CountInv s) (hr : running s = some i)
    (hu : s.upc = .poll w) (ha : afterPoll i s.cfg w = some u) : CountInv (pollTurn w u s) := by
  obtain ⟨-, ht⟩ | ⟨-, -, ht⟩ | ⟨-, -, ht⟩ := pollTurn_cases w u s <;> rw [ht]
  · exact countInv_goTo ⟨by simp, by simp⟩ hr (fun _ => rfl) (fun _ => rfl)
  · refine h.advance hr rfl rfl rfl (by simp [hu]) ?_ ?_ (fun _ => by simp [hu, countStored])
    · rintro (rfl | rfl) <;> cases w <;> cases ha <;> simp [hu, countTaken]
    · rintro rfl r rfl
      cases w <;> cases ha
  · exact ⟨h.reading, h.ended, h.last, h.nacked, h.started⟩

/-- A step of the running command at a line. -/
theorem LineStep.keeps_countInv {i : Instr} {l : Line} {e : Effect} {u : Upc}
    (hl : LineStep s.cfg s.prc s.answer i l e u) (h : CountInv s) (hr : running s = some i) (hu : s.upc = .line l) :
    CountInv (goTo u (e.apply s)) := by
  cases hl with
  | setPrc hi => exact countInv_storeCount (h.settled (by simp [hu, countTaken]) (by simp [hu])) hi hr
  | addressing hi =>
    exact ⟨by simp, by simp, by simp [countTaken], by simp,
      fun a n hj hn _ => h.started a n hj hn (by simp [hu, countStored])⟩
  | wrAddr hi | startS1 hi | startS2 hi | startStop hi =>
    exact h.advance hr rfl rfl rfl (by simp [hu]) (absurd · (not_receives_of_isStart (isStart_of_opens hi)))
      (by rintro rfl; rcases hi with hi | hi <;> cases hi) (fun _ => by simp [hu, countStored])
  | decrement =>
    exact countInv_takeCount (h.settled (by simp [hu, countTaken]) (by simp [hu])) hr (.inl rfl)
      (fun hz => by simp [Machine.decrement, hz]) (by simp)
  | zero =>
    exact countInv_takeCount (h.settled (by simp [hu, countTaken]) (by simp [hu])) hr (.inr rfl) (fun _ => rfl)
      (fun _ => rfl)
  | capture hi =>
    exact h.advance hr rfl rfl rfl (by simp [hu]) (fun _ => by simp [hu, countTaken]) (by simp)
      (absurd hi <| not_receives_of_isStart ·)
  | nack d hi =>
    refine h.advance hr rfl rfl rfl (by simp [hu]) (fun _ => by simp [hu, countTaken]) ?_ ?_
    · rintro rfl r -
      simpa using hi
    · rcases hi with ⟨rfl, -⟩ | rfl <;> simp [isStart]
  | ack d hp =>
    have hne : s.phase ≠ .readEnded := fun hph => by simpa [hu] using (h.ended hph hp).1
    exact countInv_goTo ⟨fun _ => hp, (absurd · hne)⟩ hr (fun _ => rfl) (fun _ => rfl)
  | _ =>
    have hs : CountSettled s := h.settled (by simp [hr, Receives]) (by simp [hr, isStart])
    exact countInv_goTo ⟨hs.reading, hs.ended⟩ hr (by simp [Receives]) (by simp [isStart])

/-- A step of the running command. -/
theorem ExecStep.keeps_countInv {i : Instr} (he : ExecStep i s t) (hi : Inv s) (h : CountInv s)
    (hr : running s = some i) : CountInv t := by
  have hat := hi.atLine_of_running hr
  cases he with
  | accepted hu => simp [hu, Machine.atLine] at hat
  | raised c hu =>
    have hs : CountSettled s := h.settled (by simp [hu, countTaken]) (by simp [hu])
    exact countInv_goTo ⟨by simpa using hs.reading, by simpa using hs.ended⟩ (by simpa [running] using hr)
      (fun _ => (count_bodyEntry s.cfg i).1) (count_bodyEntry s.cfg i).2
  | line l e u hu hl => exact hl.keeps_countInv h hr hu
  | poll w u hu ha => exact countInv_pollTurn h hr hu ha
  | phaseSet p r hu =>
    have hend : endPhase s.cfg i p r = true := by simpa [hu, Machine.atLine] using hat
    exact countInv_goTo (countSettled_phaseSet h hr hu hend) hr (fun _ => rfl) (fun _ => rfl)
  | responded r hu =>
    have hs : CountSettled s := h.settled (by simp [hu, countTaken]) (by simp [hu])
    exact countInv_of_not_running ⟨hs.reading, hs.ended⟩ (running_of_not_busy rfl)

/-- The block's step. -/
theorem blockStep_keeps_countInv (hi : Inv s) (h : CountInv s) (hs : blockStep s = .next t) : CountInv t := by
  obtain rfl | ⟨w, i, hb, -, hd, rfl⟩ | ⟨i, hr, he⟩ | ⟨w, e, hb, -, hd, rfl⟩ | ⟨e, hb, hd, -, rfl⟩ |
    ⟨e, r, hb, hd, -, rfl⟩ := hi.blockStep_split hs
  · exact h
  · have hs := h.settled_of_not_running (running_of_not_busy hb)
    exact countInv_goTo ⟨hs.reading, hs.ended⟩ (running_eq_some.mpr ⟨rfl, hd⟩)
      (fun _ => (count_afterAccept i s).1) (count_afterAccept i s).2
  · exact he.keeps_countInv hi h hr
  · have hs := h.settled_of_not_running (running_of_not_busy hb)
    exact countInv_of_not_running ⟨hs.reading, hs.ended⟩ (running_of_illegal hd)
  · have hs := h.settled_of_not_running (running_of_illegal hd)
    exact countInv_of_not_running ⟨by simpa using hs.reading, by simpa using hs.ended⟩
      (running_of_illegal (by simpa using hd))
  · have hs := h.settled_of_not_running (running_of_illegal hd)
    exact countInv_of_not_running ⟨hs.reading, hs.ended⟩ (running_of_not_busy rfl)

/-- Settles O53: every step keeps `CountInv`, and between commands it settles PRC and PHASE. -/
theorem stepKeepsCountAndPhaseInStep : Obligations.StepKeepsCountAndPhaseInStep := by
  constructor
  · intro s t hi h hs
    obtain ⟨ms, hb⟩ | ⟨ms, -, rfl⟩ | ho := step_split hs
    · exact blockStep_keeps_countInv (s := { s with host := ms }) { hi with } { h with } hb
    · exact countInv_of_not_running ⟨by simp, by simp⟩ (running_of_not_busy rfl)
    · rw [ho.1]
      exact { h with }
  · intro s hi h hb
    have hs := h.settled_of_not_running (running_of_not_busy hb)
    exact ⟨hs.reading, hs.ended, hi.phase_ne_addressing (by simp [hi.idle hb, inAddressPhase])⟩

end Sys2Proof.Machine
end

section
/-! Which command accesses which register and which command stores to PRC, in states with the invariant (10_state.md
R22, R40-R48). -/

namespace Sys2Proof.Machine

variable {s t : State}

/-- Under the invariant a step that makes an access, or moves PRC without a reset, is one of the running command. -/
theorem Inv.step_quiet_or_exec (h : Inv s) (hs : step s = .next t) :
    (t.trace = s.trace ∧ (t.prc = s.prc ∨ ∃ ms, s.host = .reset :: ms)) ∨
    ∃ ms i, running s = some i ∧ ExecStep i { s with host := ms } t := by
  obtain ⟨ms, hb⟩ | ⟨ms, hh, rfl⟩ | ho := step_split hs
  · obtain rfl | ⟨w, i, -, -, -, rfl⟩ | ⟨i, hr, he⟩ | ⟨w, e, -, -, -, rfl⟩ | ⟨e, -, -, -, rfl⟩ | ⟨e, r, -, -, -, rfl⟩ :=
      Inv.blockStep_split (s := { s with host := ms }) { h with } hb
    · exact .inl ⟨rfl, .inl rfl⟩
    · exact .inl ⟨rfl, .inl rfl⟩
    · exact .inr ⟨ms, i, hr, he⟩
    · exact .inl ⟨rfl, .inl rfl⟩
    · exact .inl ⟨by simp, .inl (by simp)⟩
    · exact .inl ⟨rfl, .inl rfl⟩
  · exact .inl ⟨rfl, .inr ⟨ms, hh⟩⟩
  · rw [ho.1]
    exact .inl ⟨rfl, .inl rfl⟩

/-! ## Accesses -/

/-- The access a step of a command makes: none, that of its line, or the status read of its poll loop. -/
theorem ExecStep.access_cases {i : Instr} (he : ExecStep i s t) :
    t.trace = s.trace ∨
    (∃ l e u, LineStep s.cfg s.prc s.answer i l e u ∧ t.trace = (e.apply s).trace) ∨
    (∃ w u, afterPoll i s.cfg w = some u ∧ t.trace = .read .status s.answer :: s.trace) := by
  cases he with
  | accepted => simp [accept_frame]
  | line l e u hu hl => exact .inr (.inl ⟨l, e, u, hl, rfl⟩)
  | poll w u hu ha =>
    obtain ⟨-, ht⟩ | ⟨-, -, ht⟩ | ⟨-, -, ht⟩ := pollTurn_cases w u s
    · exact .inl (by simp [ht])
    · exact .inr (.inr ⟨w, u, ha, by simp [ht]⟩)
    · exact .inr (.inr ⟨w, u, ha, by simp [ht]⟩)
  | raised | phaseSet | responded => simp

/-- An effect that leaves a write on the trace is that write. -/
theorem Effect.eq_write_of_trace {e : Effect} {r : Reg} {v : Byte}
    (h : (e.apply s).trace = .write r v :: s.trace) : e = .write r v := by
  cases e <;> simp_all

/-- An effect that leaves a read on the trace is that read. -/
theorem Effect.eq_read_of_trace {e : Effect} {r : Reg} {v : Byte} (h : (e.apply s).trace = .read r v :: s.trace) :
    e = .read r := by
  cases e <;> simp_all

/-- Command `i` is the one that writes the byte `v` to register `r`, with PRC at `prc` (R41, R45-R48). -/
def Writer (c : Config) (prc : Count) (i : Instr) (v : Byte) : Reg → Prop
  | .baud => i = .init ∧ v = c.baudValue
  | .ctrla => i = .init ∧ v = c.layout.ctrlaEnableMaster
  | .status => i = .init ∧ v = c.layout.statusForceIdle
  | .ctrlb =>
    ((∃ b, i = .write b) ∧ v = c.layout.cmdPrime) ∨
    (i = .read ∧ v = (if prc = 0#16 then c.layout.cmdNack else c.layout.cmdAckContinue)) ∨
    (i = .readlast ∧ v = c.layout.cmdNack) ∨
    (((∃ a n, i = .start a n ∨ i = .restart a n) ∨ i = .stop) ∧ v = c.layout.cmdStop)
  | .addr => ∃ a n, (i = .start a n ∨ i = .restart a n) ∧ v = addressByte c.layout a (isRead n)
  | .data => i = .write v

/-- Command `i` is one that reads register `r` (R45, R47). -/
def Reader (i : Instr) (r : Reg) : Prop :=
  i ≠ .init ∧ (r = .status ∨ (r = .data ∧ (i = .read ∨ i = .readlast)))

/-- A line writes a register of its command's own, with that register's byte. -/
theorem LineStep.writer {c : Config} {prc : Count} {b : Byte} {i : Instr} {l : Line} {u : Upc} {r : Reg} {v : Byte}
    (h : LineStep c prc b i l (.write r v) u) : Writer c prc i v r := by
  generalize he : Effect.write r v = e at h
  cases h with
  | @setPrc _ _ n => cases hn : isRead n <;> simp [hn] at he
  | wrBaud | wrCtrla | wrStatus => cases he; exact ⟨rfl, rfl⟩
  | wrAddr hi => cases he; exact ⟨_, _, hi, rfl⟩
  | loadB | loadA => cases he; exact rfl
  | primeB | primeA => cases he; exact .inl ⟨⟨_, rfl⟩, rfl⟩
  | startStop hi => cases he; exact .inr (.inr (.inr ⟨.inl ⟨_, _, hi⟩, rfl⟩))
  | stop => cases he; exact .inr (.inr (.inr ⟨.inr rfl, rfl⟩))
  | ack d hp => cases he; exact .inr (.inl ⟨rfl, (if_neg hp).symm⟩)
  | nack d hi =>
    cases he
    obtain ⟨hi, hp⟩ | hi := hi
    · exact .inr (.inl ⟨hi, (if_pos hp).symm⟩)
    · exact .inr (.inr (.inl ⟨hi, rfl⟩))
  | _ => cases he

/-- A line reads STATUS, or the DATA of READ and READLAST, and no line of INIT reads. -/
theorem LineStep.reader {c : Config} {prc : Count} {b : Byte} {i : Instr} {l : Line} {u : Upc} {r : Reg}
    (h : LineStep c prc b i l (.read r) u) : Reader i r := by
  generalize he : Effect.read r = e at h
  cases h with
  | @setPrc _ _ n => cases hn : isRead n <;> simp [hn] at he
  | startS1 hi | startS2 hi => cases he; rcases hi with rfl | rfl <;> exact ⟨by simp, .inl rfl⟩
  | writeS1B | writeS2B | writeS1A => cases he; exact ⟨by simp, .inl rfl⟩
  | capture hi => cases he; exact ⟨by rintro rfl; simp [Receives] at hi, .inr ⟨rfl, hi⟩⟩
  | _ => cases he

/-- A write that a step of a command makes is its command's own. -/
theorem ExecStep.writer {i : Instr} {r : Reg} {v : Byte} (he : ExecStep i s t) (ht : t.trace = .write r v :: s.trace) :
    Writer s.cfg s.prc i v r := by
  obtain hkeep | ⟨l, e, u, hl, hline⟩ | ⟨w, u, -, hread⟩ := he.access_cases
  · simp [hkeep] at ht
  · obtain rfl := Effect.eq_write_of_trace (hline.symm.trans ht)
    exact hl.writer
  · simp [hread] at ht

/-- A read that a step of a command makes is its command's own. -/
theorem ExecStep.reader {i : Instr} {r : Reg} {v : Byte} (he : ExecStep i s t) (ht : t.trace = .read r v :: s.trace) :
    Reader i r := by
  obtain hkeep | ⟨l, e, u, hl, hline⟩ | ⟨w, u, ha, hread⟩ := he.access_cases
  · simp [hkeep] at ht
  · obtain rfl := Effect.eq_read_of_trace (hline.symm.trans ht)
    exact hl.reader
  · obtain ⟨rfl, -⟩ : .status = r ∧ s.answer = v := by simpa [hread] using ht
    exact ⟨(by rintro rfl; cases ha), .inl rfl⟩

/-- Settles O48: only the running command's step makes an access, and its lines write and read the registers of
R40-R48. -/
theorem registersHaveTheirWriters : Obligations.RegistersHaveTheirWriters := by
  intro s t h hs
  obtain ⟨hkeep, -⟩ | ⟨ms, i, hr, he⟩ := h.step_quiet_or_exec hs
  · simp [hkeep]
  · refine ⟨fun r v ht => ⟨i, hr, ?_⟩, fun r v ht => ⟨i, hr, he.reader ht⟩⟩
    have hw : Writer s.cfg s.prc i v r := he.writer ht
    cases r <;> exact hw

/-! ## PRC -/

/-- READ's decrement takes one off a nonzero count and never wraps (R22, R160). -/
theorem decrement_toNat (c : Count) : (decrement c).toNat = c.toNat - 1 := by
  unfold decrement
  split
  · next h => simp [h]
  · next h => bv_omega

/-- The count line of START and RESTART. -/
theorem exec_setPrc {i : Instr} {a : PeerAddr} {n : Count} (hi : Opens i a n) (hu : s.upc = .line .setPrc) :
    exec i s = .next (goTo (.line .addressing) (if isRead n then setPrc n s else s)) := by
  rcases hi with rfl | rfl <;> simp [exec, execStart, execRestart, startBody, hu]

/-- Settles O50: the count lines store as R22 says, and no other step of the block moves PRC. -/
theorem countHasExactlyFourWrites : Obligations.CountHasExactlyFourWrites := by
  refine ⟨rfl, ?_, ?_, ?_⟩
  · intro i a n s hi hu
    refine ⟨_, exec_setPrc hi hu, ?_⟩
    by_cases hn : n = 0#16 <;> simp [isRead, hn]
  · intro s hu
    exact ⟨⟨goTo (.poll .rif) (setPrc (decrement s.prc) s), by simp [exec, execRead, hu], decrement_toNat s.prc⟩,
      ⟨goTo (.poll .rif) (setPrc 0#16 s), by simp [exec, execReadlast, hu], rfl⟩⟩
  · intro s t h hs hreset hne
    obtain ⟨-, hkeep | ⟨ms, hh⟩⟩ | ⟨ms, i, hr, he⟩ := h.step_quiet_or_exec hs
    · exact absurd hkeep hne
    · exact absurd hh (hreset ms)
    · obtain hkeep | ⟨-, a, n, hi, hn, hprc⟩ | ⟨-, ⟨rfl, hprc⟩ | ⟨rfl, hprc⟩⟩ := he.prc_cases
      · exact absurd hkeep hne
      · exact .inl ⟨a, n, by simpa [hr, Opens] using hi, by simpa [isRead] using hn, hprc⟩
      · have hz : s.prc ≠ 0#16 := by
          intro hz
          simp [decrement, hz, hprc] at hne
        exact .inr (.inl ⟨hr, by bv_omega, by simpa [hprc] using decrement_toNat s.prc⟩)
      · exact .inr (.inr ⟨hr, hprc⟩)

end Sys2Proof.Machine
end

section
/-! PHASE, the fault record and what the host was given influence no access and no response (10_state.md R26): the
places of a command and their effects speak of none of them. -/

namespace Sys2Proof.Machine

variable {s t : State}

/-! ## The inversion lemma's converse -/

/-- A line's effect and its next place are what `exec` answers. -/
theorem LineStep.exec_eq {i : Instr} {l : Line} {e : Effect} {u : Upc} (h : LineStep s.cfg s.prc s.answer i l e u)
    (hu : s.upc = .line l) : exec i s = .next (goTo u (e.apply s)) := by
  cases h with
  | pinSda | pinScl | wrBaud | wrCtrla | wrStatus => simp [exec, execInit, hu]
  | @setPrc _ _ n hi => rw [exec_setPrc hi hu]; cases isRead n <;> rfl
  | addressing hi | wrAddr hi | startS1 hi | startS2 hi | startStop hi =>
    rcases hi with rfl | rfl <;> simp [exec, execStart, execRestart, startBody, hu]
  | primeB hv | loadB hv | writeS1B hv | writeS2B hv => simp [exec, execWrite, writeBodyB, hu, hv]
  | loadA hv | primeA hv | writeS1A hv => simp [exec, execWrite, writeBodyA, hu, hv]
  | decrement => simp [exec, execRead, hu]
  | zero => simp [exec, execReadlast, hu]
  | capture hi => rcases hi with rfl | rfl <;> simp [exec, execRead, execReadlast, receive, hu]
  | nack d hi => rcases hi with ⟨rfl, hp⟩ | rfl <;> simp [exec, execRead, execReadlast, nackFinal, *]
  | ack d hp => simp [exec, execRead, ackContinue, hu, hp]
  | stop => simp [exec, execStop, hu]

/-- At the shared end of a command `exec` is `closing`. -/
theorem exec_eq_closing (i : Instr) (hu : (∃ p r, s.upc = .setPhase p r) ∨ ∃ r, s.upc = .respond r) :
    exec i s = closing s := by
  cases i with
  | init => rcases hu with ⟨p, r, hu⟩ | ⟨r, hu⟩ <;> simp [exec, execInit, hu]
  | start => rcases hu with ⟨p, r, hu⟩ | ⟨r, hu⟩ <;> simp [exec, execStart, startBody, hu]
  | restart => rcases hu with ⟨p, r, hu⟩ | ⟨r, hu⟩ <;> simp [exec, execRestart, startBody, hu]
  | read => rcases hu with ⟨p, r, hu⟩ | ⟨r, hu⟩ <;> simp [exec, execRead, receive, hu]
  | readlast => rcases hu with ⟨p, r, hu⟩ | ⟨r, hu⟩ <;> simp [exec, execReadlast, receive, hu]
  | stop => rcases hu with ⟨p, r, hu⟩ | ⟨r, hu⟩ <;> simp [exec, execStop, hu]
  | write =>
    cases hv : s.cfg.writeVariant <;> rcases hu with ⟨p, r, hu⟩ | ⟨r, hu⟩ <;>
      simp [exec, execWrite, writeBodyA, writeBodyB, hu, hv]

/-- Every place's step is what `exec` answers. -/
theorem ExecStep.exec_eq {i : Instr} (h : ExecStep i s t) : exec i s = .next t := by
  cases h with
  | accepted hu => exact exec_idle i hu
  | raised c hu => exact exec_raise i c hu
  | line l e u hu hl => exact hl.exec_eq hu
  | poll w u hu ha => exact exec_poll i w u hu ha
  | phaseSet p r hu => rw [exec_eq_closing i (.inl ⟨p, r, hu⟩), closing, hu]
  | responded r hu => rw [exec_eq_closing i (.inr ⟨r, hu⟩), closing, hu]

/-- An outcome that is a next state or the fault `strayLine`. -/
def NextOrStray (r : Result) : Prop := (∃ t, r = .next t) ∨ r = .fault .strayLine

@[simp] theorem nextOrStray_next (t : State) : NextOrStray (.next t) := .inl ⟨t, rfl⟩

@[simp] theorem nextOrStray_closing (s : State) : NextOrStray (closing s) := by
  unfold closing; split <;> simp [NextOrStray]

@[simp] theorem nextOrStray_startBody (a : PeerAddr) (n : Count) (s : State) : NextOrStray (startBody a n s) := by
  unfold startBody; split <;> simp

@[simp] theorem nextOrStray_receive (s : State) : NextOrStray (receive s) := by
  unfold receive; split <;> simp

@[simp] theorem nextOrStray_writeBodyA (d : Byte) (s : State) : NextOrStray (writeBodyA d s) := by
  unfold writeBodyA; split <;> simp

@[simp] theorem nextOrStray_writeBodyB (d : Byte) (s : State) : NextOrStray (writeBodyB d s) := by
  unfold writeBodyB; split <;> simp

/-- No command refuses a step. -/
theorem nextOrStray_exec (i : Instr) (s : State) : NextOrStray (exec i s) := by
  cases i with
  | init => change NextOrStray (execInit s); unfold execInit; split <;> simp
  | start => change NextOrStray (execStart _ _ s); unfold execStart; split <;> simp
  | restart => change NextOrStray (execRestart _ _ s); unfold execRestart; split <;> simp
  | write => change NextOrStray (execWrite _ s); unfold execWrite; split <;> simp
  | read => change NextOrStray (execRead s); unfold execRead; split <;> simp
  | readlast => change NextOrStray (execReadlast s); unfold execReadlast; split <;> simp
  | stop => change NextOrStray (execStop s); unfold execStop; split <;> simp

/-! ## States that differ in the shadow state only -/

theorem SameButShadow.exists_eq (h : SameButShadow s t) :
    ∃ p f c g, t = { s with phase := p, fault := f, faultCause := c, given := g } :=
  ⟨_, _, _, _, h⟩

/-- What does not depend on the shadow state agrees. -/
theorem SameButShadow.congr {α : Type} (h : SameButShadow s t) (look : State → α)
    (hl : ∀ p f c g, look { s with phase := p, fault := f, faultCause := c, given := g } = look s) :
    look t = look s := by
  obtain ⟨p, f, c, g, rfl⟩ := h.exists_eq
  exact hl p f c g

theorem SameButShadow.upc (h : SameButShadow s t) : t.upc = s.upc := h.congr State.upc fun _ _ _ _ => rfl
theorem SameButShadow.cfg (h : SameButShadow s t) : t.cfg = s.cfg := h.congr State.cfg fun _ _ _ _ => rfl
theorem SameButShadow.prc (h : SameButShadow s t) : t.prc = s.prc := h.congr State.prc fun _ _ _ _ => rfl
theorem SameButShadow.busy (h : SameButShadow s t) : t.busy = s.busy := h.congr State.busy fun _ _ _ _ => rfl
theorem SameButShadow.respValid (h : SameButShadow s t) : t.respValid = s.respValid :=
  h.congr State.respValid fun _ _ _ _ => rfl
theorem SameButShadow.port (h : SameButShadow s t) : t.port = s.port := h.congr State.port fun _ _ _ _ => rfl
theorem SameButShadow.answer (h : SameButShadow s t) : t.answer = s.answer := h.congr State.answer fun _ _ _ _ => rfl
theorem SameButShadow.fetch (h : SameButShadow s t) : fetch t = fetch s := h.congr Machine.fetch fun _ _ _ _ => rfl

/-! The relation is an equivalence that every operation keeps. -/

theorem SameButShadow.refl (s : State) : SameButShadow s s := rfl

theorem SameButShadow.symm (h : SameButShadow s t) : SameButShadow t s := by
  obtain ⟨p, f, c, g, rfl⟩ := h.exists_eq
  rfl

theorem SameButShadow.trans {u : State} (h : SameButShadow s t) (h' : SameButShadow t u) : SameButShadow s u := by
  obtain ⟨p, f, c, g, rfl⟩ := h.exists_eq
  obtain ⟨p', f', c', g', rfl⟩ := h'.exists_eq
  rfl

theorem SameButShadow.goTo (h : SameButShadow s t) (u : Upc) : SameButShadow (goTo u s) (goTo u t) := by
  obtain ⟨p, f, c, g, rfl⟩ := h.exists_eq
  rfl

theorem SameButShadow.latch (h : SameButShadow s t) (w : Word) : SameButShadow (latch w s) (latch w t) := by
  obtain ⟨p, f, c, g, rfl⟩ := h.exists_eq
  rfl

theorem SameButShadow.respond (h : SameButShadow s t) (r : Reply) : SameButShadow (respond r s) (respond r t) := by
  obtain ⟨p, f, c, g, rfl⟩ := h.exists_eq
  rfl

theorem SameButShadow.countPoll (h : SameButShadow s t) : SameButShadow (countPoll s) (countPoll t) := by
  obtain ⟨p, f, c, g, rfl⟩ := h.exists_eq
  rfl

theorem SameButShadow.apply (h : SameButShadow s t) (e : Effect) : SameButShadow (e.apply s) (e.apply t) := by
  obtain ⟨p, f, c, g, rfl⟩ := h.exists_eq
  cases e <;> rfl

/-- The record of a fault is no difference. -/
theorem sameButShadow_raiseFault (c : FaultCause) (s : State) : SameButShadow s (raiseFault c s) := by
  unfold raiseFault; split <;> rfl

theorem SameButShadow.pollTurn (h : SameButShadow s t) (w : Wait) (u : Upc) :
    SameButShadow (pollTurn w u s) (pollTurn w u t) := by
  have hread : SameButShadow (Machine.countPoll (memRead .status s)) (Machine.countPoll (memRead .status t)) :=
    (h.apply (.read .status)).countPoll
  have hout := (h.apply (.phase .unsettled)).goTo (.respond (.failure .timeout))
  obtain ⟨p, f, c, g, rfl⟩ := h.exists_eq
  unfold Machine.pollTurn
  split
  · exact hout
  · change SameButShadow _ (if waitHolds s.cfg.layout w s.answer = true then _ else _)
    dsimp only
    split
    · exact hread.goTo u
    · exact hread

/-- The host's part of a step. -/
theorem SameButShadow.hostTurn (h : SameButShadow s t) :
    (hostTurn s).2 = (hostTurn t).2 ∧ SameButShadow (hostTurn s).1 (hostTurn t).1 := by
  obtain ⟨p, f, c, g, rfl⟩ := h.exists_eq
  unfold Machine.hostTurn
  dsimp only
  split
  case h_3 | h_4 => split <;> exact ⟨rfl, rfl⟩
  all_goals exact ⟨rfl, rfl⟩

/-! ## The block's step -/

/-- A word that stands for a command takes that command's step. -/
theorem blockStep_of_fetch {w : Word} {i : Instr} (hf : fetch s = some w) (hd : decode w = .ok i) :
    blockStep s = exec i s := by
  simp [blockStep, hf, hd]

/-- A word that stands for none takes the step of an illegal word. -/
theorem blockStep_of_illegal {w : Word} {e : Reject} (hf : fetch s = some w) (hd : decode w = .error e) :
    blockStep s = illegalStep w s := by
  simp [blockStep, hf, hd]

/-- A running block accepts nothing. -/
theorem accept_of_busy (i : Instr) (hb : s.busy = true) : accept i s = s := by
  unfold accept
  split <;> simp [hb]

/-- The same place leads to the same place, whatever the shadow state. -/
theorem ExecStep.shadow {i : Instr} {s' : State} (he : ExecStep i s s') (hu : s.upc ≠ .idle) (h : SameButShadow s t) :
    ∃ t', ExecStep i t t' ∧ SameButShadow s' t' := by
  cases he with
  | accepted hidle => exact absurd hidle hu
  | raised c hr =>
    refine ⟨_, .raised c (h.upc.trans hr), ?_⟩
    rw [h.cfg]
    exact (((sameButShadow_raiseFault c s).symm.trans h).trans (sameButShadow_raiseFault c t)).goTo _
  | line l e u hl hs => exact ⟨_, .line l e u (h.upc.trans hl) (by rwa [h.cfg, h.prc, h.answer]), (h.apply e).goTo u⟩
  | poll w u hp ha => exact ⟨_, .poll w u (h.upc.trans hp) (by rwa [h.cfg]), h.pollTurn w u⟩
  | phaseSet p r hp => exact ⟨_, .phaseSet p r (h.upc.trans hp), (h.apply (.phase p)).goTo _⟩
  | responded r hr => exact ⟨_, .responded r (h.upc.trans hr), h.respond r⟩

/-- After its acceptance no step of a command leads to `raise Fault`. -/
theorem ExecStep.upc_ne_raise {i : Instr} (he : ExecStep i s t) (hu : s.upc ≠ .idle) (f : FaultCause) :
    t.upc ≠ .raise f := by
  cases he with
  | accepted hidle => exact absurd hidle hu
  | raised => exact bodyEntry_ne_raise s.cfg i f
  | line l e u _ hl => exact hl.ne_raise f
  | poll w u hp ha =>
    obtain ⟨-, ht⟩ | ⟨-, -, ht⟩ | ⟨-, -, ht⟩ := pollTurn_cases w u s <;> rw [ht]
    · simp
    · obtain rfl | rfl | rfl | ⟨r, rfl⟩ := afterPoll_cases ha <;> simp
    · simp [hp]
  | phaseSet | responded => simp

/-- Past a state that is at no `raise Fault` there is nothing to run. -/
theorem pastRaise_next (h : ∀ c, t.upc ≠ .raise c) : pastRaise (.next t) = .next t := by
  unfold pastRaise
  dsimp only
  split
  · next c hc => exact absurd hc (h c)
  · rfl

/-- A step of a command past its acceptance has the same outcome from both states. -/
theorem sameOutcome_exec (i : Instr) (h : SameButShadow s t) (hu : s.upc ≠ .idle) :
    SameOutcome (pastRaise (exec i s)) (pastRaise (exec i t)) := by
  have hut : t.upc ≠ .idle := h.upc ▸ hu
  obtain ⟨s', hs⟩ | hs := nextOrStray_exec i s
  · have he := ExecStep.of_exec hs
    obtain ⟨t', ht, hsame⟩ := he.shadow hu h
    rw [hs, ht.exec_eq, pastRaise_next (he.upc_ne_raise hu), pastRaise_next (ht.upc_ne_raise hut)]
    exact hsame
  · obtain ⟨t', ht⟩ | ht := nextOrStray_exec i t
    · obtain ⟨s', hs', -⟩ := (ExecStep.of_exec ht).shadow hut h.symm
      rw [hs'.exec_eq] at hs
      cases hs
    · rw [hs, ht]
      rfl

/-- Acceptance, with the record of a misuse it may lead to, comes to the body in every PHASE. -/
theorem pastRaise_accept (i : Instr) (w : Word) (hd : decode w = .ok i) (s : State) :
    ∃ t, pastRaise (.next (goTo (afterAccept i s) (latch w s))) = .next t ∧
      SameButShadow (goTo (bodyEntry s.cfg i) (latch w s)) t := by
  obtain ⟨-, hu⟩ | ⟨-, hu⟩ := afterAccept_cases i s <;> rw [hu]
  · exact ⟨_, pastRaise_next (bodyEntry_ne_raise s.cfg i), .refl _⟩
  · refine ⟨raiseThenBody .phaseMisuse i (goTo (.raise .phaseMisuse) (latch w s)), ?_, ?_⟩
    · change blockStep (goTo (.raise .phaseMisuse) (latch w s)) = _
      rw [blockStep_of_busy i rfl hd, exec_raise i .phaseMisuse rfl]
    · exact (sameButShadow_raiseFault .phaseMisuse (goTo (.raise .phaseMisuse) (latch w s))).goTo (bodyEntry s.cfg i)

/-- The acceptance of a command, past `raise Fault`, has the same outcome from both states. -/
theorem sameOutcome_accept (i : Instr) (w : Word) (h : SameButShadow s t) (hu : s.upc = .idle) (hf : fetch s = some w)
    (hd : decode w = .ok i) : SameOutcome (pastRaise (.next (accept i s))) (pastRaise (.next (accept i t))) := by
  obtain ⟨hb, -⟩ | ⟨hb, hv, hp⟩ := fetch_cases hf
  · rw [accept_of_busy i hb, accept_of_busy i (h.busy.trans hb), pastRaise_next (by simp [hu]),
      pastRaise_next (by simp [h.upc, hu])]
    exact h
  · rw [accept_of_presented i w hp hb hv,
      accept_of_presented i w (h.port.trans hp) (h.busy.trans hb) (h.respValid.trans hv)]
    obtain ⟨s', hs, hs'⟩ := pastRaise_accept i w hd s
    obtain ⟨t', ht, ht'⟩ := pastRaise_accept i w hd t
    rw [hs, ht]
    rw [h.cfg] at ht'
    exact (hs'.symm.trans ((h.latch w).goTo _)).trans ht'

/-- The acceptance of an illegal word, together with the record of its fault, comes to its response. -/
theorem pastRaise_acceptIllegal {w : Word} {e : Reject} (hd : decode w = .error e) (s : State) :
    pastRaise (.next (acceptIllegal w s)) = .next (raiseThenRespond .illegalCommand (acceptIllegal w s)) := by
  simp [pastRaise, blockStep, fetch, acceptIllegal, hd, illegalStep, illegalTurn]

/-- The record of an illegal word's fault leads to the same place from both states. -/
theorem SameButShadow.raiseThenRespond (h : SameButShadow s t) (c : FaultCause) :
    SameButShadow (raiseThenRespond c s) (raiseThenRespond c t) :=
  (((sameButShadow_raiseFault c s).symm.trans h).trans (sameButShadow_raiseFault c t)).goTo _

/-- A step of an illegal word in progress has the same outcome from both states. -/
theorem sameOutcome_illegalTurn (h : SameButShadow s t) :
    SameOutcome (pastRaise (illegalTurn s)) (pastRaise (illegalTurn t)) := by
  unfold illegalTurn
  rw [h.upc]
  split
  · rw [pastRaise_next (by simp), pastRaise_next (by simp)]
    exact h.raiseThenRespond _
  · rw [pastRaise_next (by simp), pastRaise_next (by simp)]
    exact h.respond _
  · rfl

/-- With no word to work on the block stays where it is. -/
theorem pastRaise_of_fetch_none (h : fetch s = none) : pastRaise (blockStep s) = .next s := by
  have hs : blockStep s = .next s := by simp [blockStep, h]
  rw [hs]
  unfold pastRaise
  dsimp only
  split
  · exact hs
  · rfl

/-- The block's step, past `raise Fault`, has the same outcome from both states. -/
theorem SameButShadow.blockStep (h : SameButShadow s t) :
    SameOutcome (pastRaise (blockStep s)) (pastRaise (blockStep t)) := by
  cases hf : Machine.fetch s with
  | none =>
    rw [pastRaise_of_fetch_none hf, pastRaise_of_fetch_none (h.fetch.trans hf)]
    exact h
  | some w =>
    cases hd : decode w with
    | ok i =>
      rw [blockStep_of_fetch hf hd, blockStep_of_fetch (h.fetch.trans hf) hd]
      by_cases hu : s.upc = .idle
      · rw [exec_idle i hu, exec_idle i (h.upc.trans hu)]
        exact sameOutcome_accept i w h hu hf hd
      · exact sameOutcome_exec i h hu
    | error e =>
      rw [blockStep_of_illegal hf hd, blockStep_of_illegal (h.fetch.trans hf) hd]
      unfold illegalStep
      rw [h.busy]
      split
      · exact sameOutcome_illegalTurn h
      · rw [pastRaise_acceptIllegal hd, pastRaise_acceptIllegal hd]
        exact ((h.latch w).goTo _).raiseThenRespond _

/-- Settles O56: the host's part of a step and the block's step keep the relation. -/
theorem phaseIsOnlyAShadow : Obligations.PhaseIsOnlyAShadow := fun _ _ h =>
  ⟨h.hostTurn.1, h.hostTurn.2, h.blockStep⟩

end Sys2Proof.Machine
end

section
/-! The bytes of the default layout and the status word (10_state.md R34, R44, R46, R48). -/

namespace Sys2Proof.Machine

/-- Settles O8: each constant byte is its fields side by side. -/
theorem standardConstantBytes : Obligations.StandardConstantBytes :=
  ⟨rfl, rfl, rfl, rfl, rfl, rfl⟩

/-! ## STATUS -/

/-- A bit above the low part of a word is one of its high part. -/
theorem getLsbD_append_of_le {v w k : Nat} (x : BitVec v) (y : BitVec w) (h : w ≤ k) :
    (x ++ y).getLsbD k = x.getLsbD (k - w) := by
  rw [BitVec.getLsbD_append, if_neg (by omega)]

/-- The lowest bit of a word whose last field is a flag is that flag. -/
theorem getLsbD_append_ofBool {v : Nat} (x : BitVec v) (b : Bool) : (x ++ BitVec.ofBool b).getLsbD 0 = b := by
  rw [BitVec.getLsbD_append, if_pos Nat.one_pos, BitVec.getLsbD_ofBool]
  simp

/-- The bus-state field is IDLE exactly when the low two bits are IDLE's code (R44). -/
theorem busIdle_append (flags : BitVec 6) (b : BusState) :
    busIdle Layout.standard (flags ++ b.code) = (b == .idle) := by
  have hmask : (flags ++ b.code) &&& (0#6 ++ 0x3#2) = 0#6 ++ b.code := by
    rw [BitVec.and_append]
    cases b <;> simp [BusState.code]
  change ((flags ++ b.code) &&& (0#6 ++ 0x3#2) == Layout.standard.busIdle) = _
  rw [hmask]
  cases b <;> rfl

/-- Settles O9: each predicate reads the bit its field stands at. -/
theorem standardSnapshotPredicates : Obligations.StandardSnapshotPredicates := by
  intro f
  refine ⟨?_, ?_, ?_, ?_, ?_, busIdle_append _ f.busState⟩
  · change f.byte.getLsbD 7 = f.rif
    unfold StatusFields.byte
    iterate 6 rw [getLsbD_append_of_le _ _ (by decide)]
    simp
  · change f.byte.getLsbD 6 = f.wif
    unfold StatusFields.byte
    iterate 5 rw [getLsbD_append_of_le _ _ (by decide)]
    exact getLsbD_append_ofBool _ f.wif
  · change f.byte.getLsbD 4 = f.rxack
    unfold StatusFields.byte
    iterate 3 rw [getLsbD_append_of_le _ _ (by decide)]
    exact getLsbD_append_ofBool _ f.rxack
  · change f.byte.getLsbD 3 = f.arblost
    unfold StatusFields.byte
    iterate 2 rw [getLsbD_append_of_le _ _ (by decide)]
    exact getLsbD_append_ofBool _ f.arblost
  · change f.byte.getLsbD 2 = f.buserr
    unfold StatusFields.byte
    rw [getLsbD_append_of_le _ _ (by decide)]
    exact getLsbD_append_ofBool _ f.buserr

/-! ## The address byte -/

/-- Settles O10: the shift keeps all seven address bits and leaves bit 0 free for the direction. -/
theorem standardAddressByte : Obligations.StandardAddressByte := by
  intro a read
  have ha := a.isLt
  have hshift : (a.setWidth 8 <<< 1).toNat = a.toNat <<< 1 := by
    simp [Nat.shiftLeft_eq]
    omega
  have hdir : (if read then 0x01#8 else 0x00#8).toNat = if read then 1 else 0 := by cases read <;> rfl
  calc (addressByte Layout.standard a read).toNat
      = (a.setWidth 8 <<< 1).toNat ||| (if read then 0x01#8 else 0x00#8).toNat := BitVec.toNat_or ..
    _ = a.toNat <<< 1 + (if read then 1 else 0) := by
      rw [hshift, hdir, Nat.shiftLeft_add_eq_or_of_lt (by split <;> simp)]
    _ = 2 * a.toNat + (if read then 1 else 0) := by rw [Nat.shiftLeft_eq, pow_one, mul_comm]

/-! ## BLK_STATUS -/

/-- Settles O15: each field is cut out of the word where it was put, and the host's two accesses to it are
`hostTurn`'s. -/
theorem statusWordFieldsAndAccess : Obligations.StatusWordFieldsAndAccess := by
  refine ⟨fun s => ?_, rfl, ?_, ?_⟩
  · unfold blkStatus
    refine ⟨BitVec.extractLsb'_append_eq_right, ?_, ?_, ?_, ?_, ?_, ?_⟩
    · rw [BitVec.extractLsb'_append_eq_of_le (by decide)]
      exact BitVec.extractLsb'_append_eq_right
    · iterate 2 rw [BitVec.extractLsb'_append_eq_of_le (by decide)]
      exact BitVec.extractLsb'_append_eq_right
    · iterate 3 rw [BitVec.extractLsb'_append_eq_of_le (by decide)]
      exact BitVec.extractLsb'_append_eq_right
    · iterate 4 rw [BitVec.extractLsb'_append_eq_of_le (by decide)]
      exact BitVec.extractLsb'_append_eq_right
    · iterate 5 rw [BitVec.extractLsb'_append_eq_of_le (by decide)]
      exact BitVec.extractLsb'_append_eq_right
    · iterate 5 rw [BitVec.extractLsb'_append_eq_of_le (by decide)]
      exact BitVec.extractLsb'_append_eq_left
  · intro s ms hh
    simp [step, hostTurn, hh]
  · intro s ms w hh
    simp [step, hostTurn, hh]

end Sys2Proof.Machine
end

section
/-! A poll loop whose flag comes ends by the read that shows it (20_memory.md R83). -/

namespace Sys2Proof.Machine

/-- Settles O43, by induction on the number of reads up to the flag: the next read ends the loop, or it is one read less
to the flag from the state after it. -/
theorem pollLeavesWhenTheFlagComes : Obligations.PollLeavesWhenTheFlagComes := by
  intro i w u s k hh hb hd hu ha hinf hflag
  induction k generalizing s with
  | zero =>
    rw [nthAnswer_zero] at hflag
    have hend := step_poll_ends i w u hh hb hd hu ha (by simp [hinf]) hflag
    exact ⟨0, le_rfl, _, steps_succ 0 hend, rfl, by simp⟩
  | succ k ih =>
    cases hw : waitHolds s.cfg.layout w s.answer with
    | true =>
      have hend := step_poll_ends i w u hh hb hd hu ha (by simp [hinf]) hw
      exact ⟨0, Nat.zero_le _, _, steps_succ 0 hend, rfl, by simp⟩
    | false =>
      have hread := step_poll_fails i w u hh hb hd hu ha (by simp [hinf]) hw
      rw [← nthAnswer_memRead .status] at hflag
      obtain ⟨j, hj, t, hrun, htu, htrace⟩ := ih (countPoll (memRead .status s)) hh hb hd hu ha hinf hflag
      refine ⟨j + 1, Nat.succ_le_succ hj, t, (steps_succ (j + 1) hread).trans hrun, htu, ?_⟩
      rw [htrace, countPoll_trace, memRead_trace, List.length_cons]
      omega

end Sys2Proof.Machine
end

section
/-! The peripheral's side of a step: the trace, the register space and the answers move as by one effect at most
(20_memory.md R60, R61, R65, R66, R68). -/

namespace Sys2Proof.Machine

variable {s t : State}

/-- The accesses made, the register space and the coming answers are the same in both states. -/
def SameBus (s t : State) : Prop :=
  t.trace = s.trace ∧ t.mem = s.mem ∧ t.answers = s.answers ∧ t.draws = s.draws

/-- A turn of a poll loop does nothing to the peripheral's side, or reads STATUS. -/
theorem pollTurn_sameBus (w : Wait) (u : Upc) (s : State) :
    SameBus s (pollTurn w u s) ∨ SameBus (memRead .status s) (pollTurn w u s) := by
  obtain ⟨-, h⟩ | ⟨-, -, h⟩ | ⟨-, -, h⟩ := pollTurn_cases w u s <;> rw [h]
  · exact .inl ⟨rfl, rfl, rfl, rfl⟩
  · exact .inr ⟨rfl, rfl, rfl, rfl⟩
  · exact .inr ⟨rfl, rfl, rfl, rfl⟩

/-- Acceptance does nothing to the peripheral's side. -/
theorem accept_sameBus (i : Instr) (s : State) : SameBus s (accept i s) := by
  obtain ⟨h, -⟩ | ⟨w, -, -, -, h⟩ := accept_cases i s <;> rw [h] <;> exact ⟨rfl, rfl, rfl, rfl⟩

/-- The record of a fault does nothing to the peripheral's side. -/
theorem raiseFault_sameBus (c : FaultCause) (s : State) : SameBus s (raiseFault c s) := by simp [SameBus]

/-- A line stores to the register that `storesTo` gives its place, and a line without one stores nothing. -/
theorem LineStep.storesTo_iff {c : Config} {prc : Count} {b : Byte} {i : Instr} {l : Line} {e : Effect} {u : Upc}
    (h : LineStep c prc b i l e u) (r : Reg) : storesTo (.line l) = some r ↔ ∃ v, e = .write r v := by
  cases h with
  | @setPrc _ _ n => cases hn : isRead n <;> simp [storesTo]
  | _ => simp [storesTo]

/-- The one effect of a step of a command: it stores exactly what `storesTo` gives its place, it reads STATUS or DATA if
it reads, and it is all the step does to the peripheral's side. -/
theorem ExecStep.exists_effect {i : Instr} (he : ExecStep i s t) :
    ∃ e : Effect, (∀ r, storesTo s.upc = some r ↔ ∃ v, e = .write r v) ∧
      (∀ r, e = .read r → r = .status ∨ r = .data) ∧ SameBus (e.apply s) t := by
  cases he with
  | accepted hu => exact ⟨.none, by simp [hu, storesTo], by simp, accept_sameBus i s⟩
  | raised c hu => exact ⟨.none, by simp [hu, storesTo], by simp, raiseFault_sameBus c s⟩
  | line l e u hu hl =>
    refine ⟨e, fun r => hu ▸ hl.storesTo_iff r, ?_, rfl, rfl, rfl, rfl⟩
    rintro r rfl
    obtain ⟨-, hr⟩ := hl.reader
    exact hr.imp_right And.left
  | poll w u hu =>
    obtain hquiet | hread := pollTurn_sameBus w u s
    · exact ⟨.none, by simp [hu, storesTo], by simp, hquiet⟩
    · exact ⟨.read .status, by simp [hu, storesTo], by simp, hread⟩
  | phaseSet p r hu => exact ⟨.none, by simp [hu, storesTo], by simp, rfl, rfl, rfl, rfl⟩
  | responded r hu => exact ⟨.none, by simp [hu, storesTo], by simp, rfl, rfl, rfl, rfl⟩

/-- The block's step has one effect on the peripheral's side too: an illegal word's steps have none. -/
theorem blockStep_exists_effect (h : blockStep s = .next t) :
    ∃ e : Effect, (∀ r, e = .read r → r = .status ∨ r = .data) ∧ SameBus (e.apply s) t := by
  obtain rfl | ⟨w, i, -, -, he⟩ | ⟨w, e, -, -, -, -, rfl⟩ | ⟨e, c, -, -, -, rfl⟩ | ⟨e, r, -, -, -, rfl⟩ :=
    blockStep_split h
  · exact ⟨.none, by simp, rfl, rfl, rfl, rfl⟩
  · obtain ⟨e, -, hread, hbus⟩ := he.exists_effect
    exact ⟨e, hread, hbus⟩
  · exact ⟨.none, by simp, rfl, rfl, rfl, rfl⟩
  · exact ⟨.none, by simp, raiseFault_sameBus c s⟩
  · exact ⟨.none, by simp, rfl, rfl, rfl, rfl⟩

/-- Settles O44: the block's step has one effect, a reset and the host's other moves have none. -/
theorem stepMakesAtMostOneAccess : Obligations.StepMakesAtMostOneAccess := by
  intro s t h
  obtain ⟨ms, hb⟩ | ⟨ms, -, rfl⟩ | ho := step_split h
  · obtain ⟨e, hread, htrace, hmem, hanswers, hdraws⟩ := blockStep_exists_effect hb
    cases e with
    | none | count | phase => exact .inl ⟨htrace, hmem, hanswers, hdraws⟩
    | pin p => exact .inr (.inl ⟨p, htrace, hmem, hanswers, hdraws⟩)
    | write r v => exact .inr (.inr (.inl ⟨r, v, htrace, hmem, hanswers, hdraws⟩))
    | read r => exact .inr (.inr (.inr ⟨r, hread r rfl, htrace, hmem, hanswers, hdraws⟩))
  · exact .inl ⟨rfl, rfl, rfl, rfl⟩
  · rw [ho.1]
    exact .inl ⟨rfl, rfl, rfl, rfl⟩

/-- An effect changes no byte but the one it writes. -/
theorem Effect.get?_apply_mem (e : Effect) (s : State) (a : Nat) (h : ∀ r v, e = .write r v → a ≠ regAddr s.cfg r) :
    Memory.get? (e.apply s).mem a = Memory.get? s.mem a := by
  cases e with
  | write r v => exact Memory.get?_set_other _ _ _ _ (h r v rfl)
  | none | pin | read | count | phase => rfl

/-- Settles O47: the step's one effect stores to the register of its place and to no other. -/
theorem memoryFrame : Obligations.MemoryFrame := by
  intro i s t a h
  obtain ⟨e, hstores, -, htrace, hmem, -, -⟩ := (ExecStep.of_exec h).exists_effect
  rw [htrace, hmem]
  refine ⟨fun ha => e.get?_apply_mem s a fun r v hw => ha r ((hstores r).mpr ⟨v, hw⟩), fun r hr => ?_⟩
  obtain ⟨v, rfl⟩ := (hstores r).mp hr
  exact ⟨v, rfl, Memory.get?_set_same ..⟩

end Sys2Proof.Machine
end

section
/-! The decoder and the encoder are inverse to each other, operands included (30_encoding.md R91-R96, R100, R102): a
word decodes to a command exactly when its fields are the command's. -/

namespace Sys2Proof.Machine

/-! ## The fields as numbers -/

theorem opField_toNat (w : Word) : (opField w).toNat = w.toNat % 16 := by
  simp [opField]

theorem addrField_toNat (w : Word) : (addrField w).toNat = w.toNat / 16 % 128 := by
  simp [addrField, Nat.shiftRight_eq_div_pow]

theorem dataField_toNat (w : Word) : (dataField w).toNat = w.toNat / 16 % 256 := by
  simp [dataField, Nat.shiftRight_eq_div_pow]

theorem countField_toNat (w : Word) : (countField w).toNat = w.toNat / 65536 := by
  simp [countField, Nat.shiftRight_eq_div_pow]
  omega

theorem opField_eq_iff (w : Word) (op : BitVec 4) : opField w = op ↔ w.toNat % 16 = op.toNat := by
  rw [BitVec.toNat_eq, opField_toNat]

theorem zeroN_iff (w : Word) : zeroN w = true ↔ w.toNat / 16 = 0 := by
  simp [zeroN, BitVec.toNat_eq, Nat.shiftRight_eq_div_pow]
  omega

theorem zeroA_iff (w : Word) : zeroA w = true ↔ w.toNat / 2048 % 32 = 0 := by
  simp [zeroA, BitVec.toNat_eq, Nat.shiftRight_eq_div_pow]

theorem zeroD_iff (w : Word) : zeroD w = true ↔ w.toNat / 4096 = 0 := by
  simp [zeroD, BitVec.toNat_eq, Nat.shiftRight_eq_div_pow]
  omega

/-! ## A word is its fields side by side -/

theorem formatN_eq {w : Word} (h : zeroN w = true) : 0#28 ++ opField w = w := by
  rw [← eq_of_beq h]
  exact BitVec.extractLsb'_append_extractLsb'

theorem formatA_eq {w : Word} (h : zeroA w = true) : countField w ++ 0#5 ++ addrField w ++ opField w = w := by
  rw [← eq_of_beq h]
  unfold countField addrField opField
  rw [BitVec.extractLsb'_append_extractLsb'_eq_extractLsb' (by decide),
    BitVec.extractLsb'_append_extractLsb'_eq_extractLsb' (by decide)]
  exact BitVec.extractLsb'_append_extractLsb'

theorem formatD_eq {w : Word} (h : zeroD w = true) : 0#20 ++ dataField w ++ opField w = w := by
  rw [← eq_of_beq h]
  unfold dataField opField
  rw [BitVec.extractLsb'_append_extractLsb'_eq_extractLsb' (by decide)]
  exact BitVec.extractLsb'_append_extractLsb'

/-- The opcode and the operand fields of the word are those of the command, and its format's must-be-zero bits are zero
(R91, R94). -/
def HasFields (w : Word) : Instr → Prop
  | .init => opField w = 0x1#4 ∧ zeroN w = true
  | .start a n => opField w = 0x2#4 ∧ zeroA w = true ∧ addrField w = a ∧ countField w = n
  | .restart a n => opField w = 0x3#4 ∧ zeroA w = true ∧ addrField w = a ∧ countField w = n
  | .write b => opField w = 0x4#4 ∧ zeroD w = true ∧ dataField w = b
  | .read => opField w = 0x5#4 ∧ zeroN w = true
  | .readlast => opField w = 0x6#4 ∧ zeroN w = true
  | .stop => opField w = 0x7#4 ∧ zeroN w = true

/-- The fields cut out of a word of Format A are those it was put together from. -/
theorem fields_formatA (n : Count) (a : PeerAddr) (op : BitVec 4) :
    opField (n ++ 0#5 ++ a ++ op) = op ∧ zeroA (n ++ 0#5 ++ a ++ op) = true ∧
    addrField (n ++ 0#5 ++ a ++ op) = a ∧ countField (n ++ 0#5 ++ a ++ op) = n := by
  unfold opField zeroA addrField countField
  refine ⟨BitVec.extractLsb'_append_eq_right, beq_iff_eq.mpr ?_, ?_, ?_⟩
  · iterate 2 rw [BitVec.extractLsb'_append_eq_of_le (by decide)]
    exact BitVec.extractLsb'_append_eq_right
  · rw [BitVec.extractLsb'_append_eq_of_le (by decide)]
    exact BitVec.extractLsb'_append_eq_right
  · iterate 2 rw [BitVec.extractLsb'_append_eq_of_le (by decide)]
    exact BitVec.extractLsb'_append_eq_left

/-- The fields cut out of a word of Format D are those it was put together from. -/
theorem fields_formatD (b : Byte) (op : BitVec 4) :
    opField (0#20 ++ b ++ op) = op ∧ zeroD (0#20 ++ b ++ op) = true ∧ dataField (0#20 ++ b ++ op) = b := by
  unfold opField zeroD dataField
  refine ⟨BitVec.extractLsb'_append_eq_right, beq_iff_eq.mpr ?_, ?_⟩
  · rw [BitVec.extractLsb'_append_eq_of_le (by decide)]
    exact BitVec.extractLsb'_append_eq_left
  · rw [BitVec.extractLsb'_append_eq_of_le (by decide)]
    exact BitVec.extractLsb'_append_eq_right

/-- The word of a command has the command's fields. -/
theorem hasFields_encode (i : Instr) : HasFields (encode i) i := by
  cases i with
  | start a n => exact fields_formatA n a 0x2#4
  | restart a n => exact fields_formatA n a 0x3#4
  | write b => exact fields_formatD b 0x4#4
  | init | read | readlast | stop => exact ⟨rfl, rfl⟩

/-- A word with a command's fields is the word of that command. -/
theorem HasFields.encode_eq {w : Word} {i : Instr} (h : HasFields w i) : encode i = w := by
  cases i with
  | start | restart =>
    obtain ⟨hop, hz, rfl, rfl⟩ := h
    have hw := formatA_eq hz
    rwa [hop] at hw
  | write =>
    obtain ⟨hop, hz, rfl⟩ := h
    have hw := formatD_eq hz
    rwa [hop] at hw
  | init | read | readlast | stop =>
    obtain ⟨hop, hz⟩ := h
    have hw := formatN_eq hz
    rwa [hop] at hw

/-! ## The decoder -/

theorem guarded_eq_ok_iff {zero : Bool} {i j : Instr} : guarded zero i = .ok j ↔ zero = true ∧ i = j := by
  cases zero <;> simp [guarded]

theorem exists_guarded_eq_ok {zero : Bool} {i : Instr} : (∃ j, guarded zero i = .ok j) ↔ zero = true := by
  simp [guarded_eq_ok_iff]

theorem exists_guarded_eq_error {zero : Bool} {i : Instr} : (∃ e, guarded zero i = .error e) ↔ ¬ zero = true := by
  cases zero <;> simp [guarded]

/-- What the decoder can answer: by its opcode a word belongs to one command and is checked by that command's format, or
to none (R92). -/
inductive Decoded (w : Word) : Except Reject Instr → Prop
  | init (hop : opField w = 0x1#4) : Decoded w (guarded (zeroN w) .init)
  | start (hop : opField w = 0x2#4) : Decoded w (guarded (zeroA w) (.start (addrField w) (countField w)))
  | restart (hop : opField w = 0x3#4) : Decoded w (guarded (zeroA w) (.restart (addrField w) (countField w)))
  | write (hop : opField w = 0x4#4) : Decoded w (guarded (zeroD w) (.write (dataField w)))
  | read (hop : opField w = 0x5#4) : Decoded w (guarded (zeroN w) .read)
  | readlast (hop : opField w = 0x6#4) : Decoded w (guarded (zeroN w) .readlast)
  | stop (hop : opField w = 0x7#4) : Decoded w (guarded (zeroN w) .stop)
  | unknown (hop : opField w ∉ [0x1#4, 0x2#4, 0x3#4, 0x4#4, 0x5#4, 0x6#4, 0x7#4]) : Decoded w (.error .badOpcode)

theorem decoded_decode (w : Word) : Decoded w (decode w) := by
  unfold decode
  split_ifs with h1 h2 h3 h4 h5 h6 h7
  · exact .init h1
  · exact .start h2
  · exact .restart h3
  · exact .write h4
  · exact .read h5
  · exact .readlast h6
  · exact .stop h7
  · exact .unknown (by simp [h1, h2, h3, h4, h5, h6, h7])

/-- A word that decodes to a command has the command's fields. -/
theorem hasFields_of_decode {w : Word} {i : Instr} (h : decode w = .ok i) : HasFields w i := by
  have hd := decoded_decode w
  generalize decode w = d at h hd
  cases hd with
  | unknown => cases h
  | start hop | restart hop =>
    obtain ⟨hz, rfl⟩ := guarded_eq_ok_iff.mp h
    exact ⟨hop, hz, rfl, rfl⟩
  | write hop =>
    obtain ⟨hz, rfl⟩ := guarded_eq_ok_iff.mp h
    exact ⟨hop, hz, rfl⟩
  | init hop | read hop | readlast hop | stop hop =>
    obtain ⟨hz, rfl⟩ := guarded_eq_ok_iff.mp h
    exact ⟨hop, hz⟩

/-- A word with a command's fields decodes to the command. -/
theorem HasFields.decode_eq {w : Word} {i : Instr} (h : HasFields w i) : decode w = .ok i := by
  cases i with
  | start | restart =>
    obtain ⟨hop, hz, rfl, rfl⟩ := h
    simp [decode, hop, hz, guarded]
  | write =>
    obtain ⟨hop, hz, rfl⟩ := h
    simp [decode, hop, hz, guarded]
  | init | read | readlast | stop =>
    obtain ⟨hop, hz⟩ := h
    simp [decode, hop, hz, guarded]

/-- Settles O1: the word of a command has the command's fields. -/
theorem decodeGivesBackEveryEncodedCommand : Obligations.DecodeGivesBackEveryEncodedCommand := fun i =>
  (hasFields_encode i).decode_eq

/-- Settles O2: a legal word has its command's fields, which are all of the word. -/
theorem encodeGivesBackEveryLegalWord : Obligations.EncodeGivesBackEveryLegalWord := fun _ _ h =>
  (hasFields_of_decode h).encode_eq

/-- Settles O4: the operands are fields, and the fields are these parts of the number. -/
theorem operandsAreTheirFields : Obligations.OperandsAreTheirFields := by
  intro w a n b
  refine ⟨fun h => ?_, fun h => ?_⟩
  · obtain ⟨rfl, rfl⟩ : addrField w = a ∧ countField w = n := by
      obtain h | h := h <;> exact (hasFields_of_decode h).2.2
    refine ⟨addrField_toNat w, countField_toNat w, ?_⟩
    rw [← countField_toNat]
    simp [isRead, BitVec.toNat_eq]
  · obtain ⟨-, -, rfl⟩ := hasFields_of_decode h
    exact dataField_toNat w

/-- Settles O5: a word is refused for its opcode or, in its opcode's format, for its must-be-zero bits. -/
theorem illegalWordsAreExactlyThese : Obligations.IllegalWordsAreExactlyThese := by
  intro w
  have hd := decoded_decode w
  generalize decode w = d at hd ⊢
  cases hd with
  | unknown hop =>
    simp only [List.mem_cons, List.not_mem_nil, or_false, not_or, opField_eq_iff, BitVec.reduceToNat] at hop
    simp only [Except.error.injEq, exists_eq', true_iff]
    omega
  | init hop | read hop | readlast hop | stop hop =>
    simp only [opField_eq_iff, BitVec.reduceToNat] at hop
    rw [exists_guarded_eq_error, zeroN_iff]
    omega
  | start hop | restart hop =>
    simp only [opField_eq_iff, BitVec.reduceToNat] at hop
    rw [exists_guarded_eq_error, zeroA_iff]
    omega
  | write hop =>
    simp only [opField_eq_iff, BitVec.reduceToNat] at hop
    rw [exists_guarded_eq_error, zeroD_iff]
    omega

/-! ## The match and mask table -/

/-- A field that the mask keeps is compared in full. -/
theorem extractLsb'_eq_of_and_eq {w mask v : Word} {start len : Nat}
    (hm : mask.extractLsb' start len = BitVec.allOnes len) (h : w &&& mask = v) :
    w.extractLsb' start len = v.extractLsb' start len := by
  rw [← h, BitVec.extractLsb'_and, hm, BitVec.and_allOnes]

/-- Every row of R93 looks at the whole opcode. -/
theorem opField_eq_of_hits {w : Word} {r : Row} (hr : r ∈ rows) (h : r.hits w = true) :
    opField w = opField r.value :=
  have hmask : ∀ r ∈ rows, r.mask.extractLsb' 0 4 = BitVec.allOnes 4 := by decide
  extractLsb'_eq_of_and_eq (hmask r hr) (eq_of_beq h)

/-- No two rows of R93 have one opcode. -/
theorem row_eq_of_opField_eq : ∀ r ∈ rows, ∀ r' ∈ rows, opField r.value = opField r'.value → r = r' := by
  decide

/-- A row whose mask keeps the opcode and one field of zeros matches a word exactly by the two, if they are all that the
mask keeps (`hback`). -/
theorem hits_iff {w mask : Word} {op : BitVec 4} {start len : Nat} (hstart : 4 ≤ start)
    (hop : mask.extractLsb' 0 4 = BitVec.allOnes 4) (hzero : mask.extractLsb' start len = BitVec.allOnes len)
    (hback : (w.extractLsb' start len == 0#len) = true → w &&& mask = 0#28 ++ opField w) :
    Row.hits ⟨mask, 0#28 ++ op⟩ w = true ↔ opField w = op ∧ (w.extractLsb' start len == 0#len) = true := by
  rw [Row.hits, beq_iff_eq]
  constructor
  · intro h
    refine ⟨(extractLsb'_eq_of_and_eq hop h).trans BitVec.extractLsb'_append_eq_right, beq_iff_eq.mpr ?_⟩
    rw [extractLsb'_eq_of_and_eq hzero h, BitVec.extractLsb'_append_eq_of_le hstart]
    simp
  · rintro ⟨rfl, hz⟩
    exact hback hz

theorem hits_formatN (w : Word) (op : BitVec 4) :
    Row.hits ⟨0xFFFFFFFF#32, 0#28 ++ op⟩ w = true ↔ opField w = op ∧ zeroN w = true :=
  hits_iff (by decide) (by decide) (by decide) fun hz => BitVec.and_allOnes.trans (formatN_eq hz).symm

theorem hits_formatA (w : Word) (op : BitVec 4) :
    Row.hits ⟨0x0000F80F#32, 0#28 ++ op⟩ w = true ↔ opField w = op ∧ zeroA w = true :=
  hits_iff (by decide) (by decide) (by decide) fun hz => by
    have hmask := Laws.RowMatch.formatA (countField w) (addrField w) (opField w)
    rwa [formatA_eq hz] at hmask

theorem hits_formatD (w : Word) (op : BitVec 4) :
    Row.hits ⟨0xFFFFF00F#32, 0#28 ++ op⟩ w = true ↔ opField w = op ∧ zeroD w = true :=
  hits_iff (by decide) (by decide) (by decide) fun hz => by
    have hmask := Laws.RowMatch.formatD (dataField w) (opField w)
    rwa [formatD_eq hz] at hmask

/-- The rows of R93 by format and opcode. -/
theorem rows_eq : rows =
    [⟨0xFFFFFFFF#32, 0#28 ++ 0x1#4⟩, ⟨0x0000F80F#32, 0#28 ++ 0x2#4⟩, ⟨0x0000F80F#32, 0#28 ++ 0x3#4⟩,
     ⟨0xFFFFF00F#32, 0#28 ++ 0x4#4⟩, ⟨0xFFFFFFFF#32, 0#28 ++ 0x5#4⟩, ⟨0xFFFFFFFF#32, 0#28 ++ 0x6#4⟩,
     ⟨0xFFFFFFFF#32, 0#28 ++ 0x7#4⟩] := rfl

/-- A word decodes to a command exactly when one row of R93 matches it. -/
theorem exists_decode_eq_ok_iff (w : Word) : (∃ i, decode w = .ok i) ↔ legalWord w = true := by
  have hd := decoded_decode w
  generalize decode w = d at hd ⊢
  simp only [legalWord, rows_eq, List.filter_cons, hits_formatN, hits_formatA, hits_formatD]
  cases hd with
  | unknown hop => simp_all
  | init hop | start hop | restart hop | write hop | read hop | readlast hop | stop hop =>
    simp [exists_guarded_eq_ok, hop, apply_ite List.length]

/-- The word of a command matches the command's row. -/
theorem hits_row_encode (i : Instr) : i.row.hits (encode i) = true := by
  cases i with
  | init => exact Laws.RowMatch.init
  | start a n => exact Laws.RowMatch.start a n
  | restart a n => exact Laws.RowMatch.restart a n
  | write b => exact Laws.RowMatch.write b
  | read => exact Laws.RowMatch.read
  | readlast => exact Laws.RowMatch.readlast
  | stop => exact Laws.RowMatch.stop

theorem row_mem_rows (i : Instr) : i.row ∈ rows := by
  cases i <;> simp [Instr.row, rows]

/-- Settles O3: a legal word is its command's word, which matches the command's row, and two rows that match one word
have its opcode. -/
theorem legalWordsMatchExactlyOneRow : Obligations.LegalWordsMatchExactlyOneRow := by
  intro w
  refine ⟨exists_decode_eq_ok_iff w, fun i h => ⟨row_mem_rows i, ?_⟩, fun r hr r' hr' h h' => ?_⟩
  · rw [← (hasFields_of_decode h).encode_eq]
    exact hits_row_encode i
  · exact row_eq_of_opField_eq r hr r' hr' ((opField_eq_of_hits hr h).symm.trans (opField_eq_of_hits hr' h'))

/-- Settles O6: each word is decoded. -/
theorem exampleWordsDecode : Obligations.ExampleWordsDecode :=
  ⟨rfl, rfl, rfl, rfl, rfl, rfl, rfl, rfl, rfl, rfl, rfl⟩

/-! ## The assembler -/

/-- The fields of a word of Format A by the number the word is: an address in range spills into no other field. -/
theorem fields_ofNat_formatA {a n op : Nat} (ha : a < 128) (hop : op < 16) :
    opField (BitVec.ofNat 32 (n * 65536 + a * 16 + op)) = BitVec.ofNat 4 op ∧
    zeroA (BitVec.ofNat 32 (n * 65536 + a * 16 + op)) = true ∧
    addrField (BitVec.ofNat 32 (n * 65536 + a * 16 + op)) = BitVec.ofNat 7 a ∧
    countField (BitVec.ofNat 32 (n * 65536 + a * 16 + op)) = BitVec.ofNat 16 n := by
  simp only [zeroA_iff, BitVec.toNat_eq, opField_toNat, addrField_toNat, countField_toNat, BitVec.toNat_ofNat]
  omega

/-- The fields of a word of Format D by the number the word is: a byte in range spills into no other field. -/
theorem hasFields_ofNat_write {b : Nat} (hb : b < 256) :
    HasFields (BitVec.ofNat 32 (b * 16 + 4)) (.write (BitVec.ofNat 8 b)) := by
  simp only [HasFields, zeroD_iff, BitVec.toNat_eq, opField_toNat, dataField_toNat, BitVec.toNat_ofNat]
  omega

/-- Settles O7: the table's word has the fields of the command that the operands in range give. -/
theorem assemblerWordsAndRanges : Obligations.AssemblerWordsAndRanges := by
  intro a n b
  refine ⟨fun ha hn => ?_, fun hb => ?_, fun h => ?_, fun hb => ?_⟩
  · have hstart :
        HasFields (BitVec.ofNat 32 (n * 65536 + a * 16 + 2)) (.start (BitVec.ofNat 7 a) (BitVec.ofNat 16 n)) :=
      fields_ofNat_formatA ha (by decide)
    have hrestart :
        HasFields (BitVec.ofNat 32 (n * 65536 + a * 16 + 3)) (.restart (BitVec.ofNat 7 a) (BitVec.ofNat 16 n)) :=
      fields_ofNat_formatA ha (by decide)
    simp [Source.toInstr, Source.wellFormed, ha, hn, Except.map, hstart.encode_eq, hrestart.encode_eq]
  · simp [Source.toInstr, Source.wellFormed, hb, Except.map, (hasFields_ofNat_write hb).encode_eq]
  · have hrange : ¬ (a < 128 ∧ n < 65536) := by omega
    simp [Source.toInstr, Source.wellFormed, hrange]
  · simp [Source.toInstr, Source.wellFormed, hb]

end Sys2Proof.Machine
end

section
/-! The response word, and the response a command ends with (30_encoding.md R97-R99). -/

namespace Sys2Proof.Machine

variable {s t : State}

/-- Settles O16: each field is cut out of the word where it was put. -/
theorem responseWordFields : Obligations.ResponseWordFields := by
  refine ⟨fun r => ?_, rfl, rfl, rfl, rfl, rfl, rfl, rfl⟩
  unfold Reply.word
  refine ⟨BitVec.extractLsb'_append_eq_right, ?_, ?_, ?_, ?_⟩
  · rw [BitVec.extractLsb'_append_eq_of_le (by decide)]
    exact BitVec.extractLsb'_append_eq_right
  · iterate 2 rw [BitVec.extractLsb'_append_eq_of_le (by decide)]
    exact BitVec.extractLsb'_append_eq_right
  · iterate 3 rw [BitVec.extractLsb'_append_eq_of_le (by decide)]
    exact BitVec.extractLsb'_append_eq_right
  · iterate 3 rw [BitVec.extractLsb'_append_eq_of_le (by decide)]
    exact BitVec.extractLsb'_append_eq_left

/-- A reply that reports a failure: a cause, and no data (R97). -/
def Fails (r : Reply) : Prop := ∃ cause, cause ≠ .none ∧ r = .failure cause

theorem fails_of_addressFailure {r : Reply} (h : addressFailure r = true) : Fails r := by
  simp only [addressFailure, Bool.or_eq_true, beq_iff_eq] at h
  obtain (rfl | rfl) | rfl := h <;> exact ⟨_, by decide, rfl⟩

theorem fails_of_writeFailure {r : Reply} (h : writeFailure r = true) : Fails r := by
  simp only [writeFailure, Bool.or_eq_true, beq_iff_eq] at h
  obtain rfl | rfl := h <;> exact ⟨_, by decide, rfl⟩

theorem fails_of_timeoutReply {c : Config} {r : Reply} (h : timeoutReply c r = true) : Fails r := by
  simp only [timeoutReply, Bool.and_eq_true, beq_iff_eq] at h
  exact ⟨_, by decide, h.2⟩

/-- A reply of a command's row of R99 is a failure, or a success whose data is not 0 from READ and READLAST alone. -/
theorem replyAllowed_cases {c : Config} {i : Instr} {r : Reply} (h : replyAllowed c i r = true) :
    Fails r ∨ r = .success 0#8 ∨ (r = .success r.data ∧ (i = .read ∨ i = .readlast)) := by
  cases i <;> simp only [replyAllowed, Bool.or_eq_true, Bool.and_eq_true, beq_iff_eq] at h
  case init => exact .inr (.inl h)
  case start | restart =>
    obtain (hok | hfail) | htime := h
    · exact .inr (.inl hok)
    · exact .inl (fails_of_addressFailure hfail)
    · exact .inl (fails_of_timeoutReply htime)
  case write =>
    obtain ((hok | hnack) | ⟨-, hfail⟩) | htime := h
    · exact .inr (.inl hok)
    · exact .inl ⟨_, by decide, hnack⟩
    · exact .inl (fails_of_writeFailure hfail)
    · exact .inl (fails_of_timeoutReply htime)
  case read | readlast =>
    obtain hok | htime := h
    · exact .inr (.inr ⟨hok, by simp⟩)
    · exact .inl (fails_of_timeoutReply htime)
  case stop =>
    obtain hok | ⟨-, htime⟩ := h
    · exact .inr (.inl hok)
    · exact .inl (fails_of_timeoutReply htime)

/-- What R97 asks of OK, CAUSE and DATA holds of a reply of the command's row. -/
theorem reply_fields_of_allowed {c : Config} {i : Instr} {r : Reply} (h : replyAllowed c i r = true) :
    (r.ok = true ↔ r.cause = .none) ∧ (r.data ≠ 0#8 → i = .read ∨ i = .readlast) := by
  obtain ⟨cause, hne, rfl⟩ | rfl | ⟨hok, hi⟩ := replyAllowed_cases h
  · simp [Reply.failure, hne]
  · simp [Reply.success]
  · rw [hok]
    simp [Reply.success, hi]

/-- The step that ends the running command is its response, with a reply of its row. -/
theorem ExecStep.ends {i : Instr} (he : ExecStep i s t) (h : Inv s) (hr : running s = some i) (ht : t.busy = false) :
    ∃ r, t = respond r s ∧ replyAllowed s.cfg i r = true := by
  have hat := h.atLine_of_running hr
  have hb := (running_eq_some.mp hr).1
  cases he with
  | accepted hu => simp [hu, Machine.atLine] at hat
  | responded r hu => exact ⟨r, rfl, by simpa [hu, Machine.atLine] using hat⟩
  | poll => simp [pollTurn_frame, hb] at ht
  | raised | line | phaseSet => simp [hb] at ht

/-- Under the invariant the block's step that clears BUSY is the response of the running command or of an illegal
word. -/
theorem Inv.blockStep_ends (h : Inv s) (hs : blockStep s = .next t) (hb : s.busy = true) (ht : t.busy = false) :
    ∃ r, t = respond r s ∧
      ((∃ i, running s = some i ∧ replyAllowed s.cfg i r = true) ∨
       (running s = none ∧ r = .failure .illegalCommand)) := by
  obtain rfl | ⟨w, i, hnb, -⟩ | ⟨i, hr, he⟩ | ⟨w, e, hnb, -⟩ | ⟨e, -, -, -, rfl⟩ | ⟨e, r, -, hd, hu, rfl⟩ :=
    h.blockStep_split hs
  · simp [hb] at ht
  · simp [hb] at hnb
  · obtain ⟨r, rfl, hallowed⟩ := he.ends h hr ht
    exact ⟨r, rfl, .inl ⟨i, hr, hallowed⟩⟩
  · simp [hb] at hnb
  · simp [hb] at ht
  · have hreply : r = .failure .illegalCommand := by simpa [hu] using h.illegal e hb hd
    exact ⟨r, rfl, .inr ⟨running_of_illegal hd, hreply⟩⟩

/-- Settles O55: the step that ends a command is a response, and its reply is of the command's row of R99. -/
theorem responsesFollowTheTable : Obligations.ResponsesFollowTheTable := by
  intro s t h hs hreset hb ht
  obtain ⟨ms, hblock⟩ | ho := step_split_of_no_reset hs hreset
  · obtain ⟨r, rfl, ⟨i, hr, hallowed⟩ | ⟨hr, rfl⟩⟩ :=
      Inv.blockStep_ends (s := { s with host := ms }) { h with } hblock hb ht
    · obtain ⟨hcause, hdata⟩ := reply_fields_of_allowed hallowed
      exact ⟨r, rfl, rfl, hcause, .inl ⟨i, hr, hallowed, hdata⟩⟩
    · exact ⟨_, rfl, rfl, by simp [Reply.failure], .inr ⟨hr, rfl⟩⟩
  · rw [ho.1] at ht
    simp [hb] at ht

end Sys2Proof.Machine
end

section
/-! INIT (40_initialize.md R120-R125): the clock divider, the lines of its body, the whole command, and the register
that would enable an interrupt. -/

namespace Sys2Proof.Machine

variable {s t : State}

/-! ## The clock divider (R122) -/

/-- With positive clock figures the formula's value is taken as it is or refused. -/
theorem suggestedBaud_eq {coreHz busHz : Nat} (riseNs : Nat) (hcore : 0 < coreHz) (hbus : 0 < busHz) :
    suggestedBaud coreHz busHz riseNs =
      if 0 ≤ dividerFormula coreHz busHz riseNs ∧ dividerFormula coreHz busHz riseNs ≤ 255
      then some (BitVec.ofInt 8 (dividerFormula coreHz busHz riseNs)) else none :=
  if_neg (by omega)

/-- A byte holds every number in 0..255. -/
theorem toNat_ofInt_of_byte {q : Int} (h0 : 0 ≤ q) (h255 : q ≤ 255) : ((BitVec.ofInt 8 q).toNat : Int) = q := by
  rw [BitVec.toNat_ofInt]
  omega

/-- Settles O11: the range check lets through exactly the numbers that a byte holds. -/
theorem dividerIsFormulaOrRefused : Obligations.DividerIsFormulaOrRefused := by
  intro coreHz busHz riseNs hcore hbus
  have hbaud := suggestedBaud_eq riseNs hcore hbus
  constructor
  · intro h0 h255
    exact ⟨_, hbaud.trans (if_pos ⟨h0, h255⟩), toNat_ofInt_of_byte h0 h255⟩
  · intro hout base
    have hnone : suggestedBaud coreHz busHz riseNs = none := hbaud.trans (if_neg (by omega))
    simp [configOfClock, hnone]

/-- Settles O12: the six rows of R123 are evaluated. -/
theorem dividerWorkedValues : Obligations.DividerWorkedValues := by
  unfold Obligations.DividerWorkedValues
  decide

/-! ## The lines of INIT (R120) -/

/-- Settles O24: each line has its effect and leads to a place that is no poll loop, so POLL_CNT stays. -/
theorem initLines : Obligations.InitLines := by
  intro s
  refine ⟨fun hu => ?_, fun hu => ?_, fun hu => ?_, fun hu => ?_, fun hu => ?_, fun p r hu => ?_⟩
  · exact LineStep.pinSda.exec_eq hu
  · exact LineStep.pinScl.exec_eq hu
  · exact LineStep.wrBaud.exec_eq hu
  · exact LineStep.wrCtrla.exec_eq hu
  · exact LineStep.wrStatus.exec_eq hu
  · exact (ExecStep.phaseSet p r hu).exec_eq

/-! ## A command on its way, with no host move pending -/

/-- Command `i` is being executed and the host makes no move. -/
structure Executes (i : Instr) (s : State) : Prop where
  quiet : s.host = []
  busy : s.busy = true
  decodes : decode s.cmd = .ok i

theorem Executes.step_eq {i : Instr} (h : Executes i s) : step s = exec i s :=
  step_of_busy i h.quiet h.busy h.decodes

/-- A command goes on after a line of its own. -/
theorem Executes.goTo_apply {i : Instr} (h : Executes i s) (u : Upc) (e : Effect) :
    Executes i (goTo u (e.apply s)) :=
  ⟨by simpa using h.quiet, by simpa using h.busy, by simpa using h.decodes⟩

/-- One line of the command, then the rest. -/
theorem Executes.steps_line {i : Instr} {l : Line} {e : Effect} {u : Upc} (h : Executes i s) (k : Nat)
    (hl : LineStep s.cfg s.prc s.answer i l e u) (hu : s.upc = .line l) :
    steps (k + 1) s = steps k (goTo u (e.apply s)) :=
  steps_succ k (h.step_eq.trans (hl.exec_eq hu))

/-- The last update of PHASE and the response are two steps. -/
theorem Executes.steps_ending {i : Instr} {p : Phase} {r : Reply} (h : Executes i s) (hu : s.upc = .setPhase p r) :
    steps 2 s = .next (respond r (goTo (.respond r) (setPhase p s))) := by
  have hlast := step_respond (s := goTo (.respond r) (setPhase p s)) i r h.quiet h.busy h.decodes rfl
  rw [steps_succ 1 (step_setPhase i p r h.quiet h.busy h.decodes hu), steps_succ 0 hlast, steps_zero]

theorem executes_acceptedState {i : Instr} (h : Presented i s) (u : Upc) (cnt : Nat) :
    Executes i (acceptedState i u cnt s) :=
  ⟨h.1, rfl, decodeGivesBackEveryEncodedCommand i⟩

/-- A whole command is its acceptance, with the record of a misuse, and its body. -/
theorem completesIn_of_body {i : Instr} {k cnt : Nat} {r : Reply} {p : Phase} {c : Count} {evs : List Event}
    (h : Presented i s)
    (hbody : steps k (acceptedState i (bodyEntry s.cfg i) (goTo (bodyEntry s.cfg i) s).pollCnt s) =
      .next (ended i s r p c evs cnt)) : CompletesIn (k + 1) i s r p c evs := by
  refine ⟨cnt, ?_⟩
  rw [show k + 1 + raiseSteps i s.phase = 1 + raiseSteps i s.phase + k by omega,
    steps_add _ k (steps_accept i h (decodeGivesBackEveryEncodedCommand i)), hbody]

/-! ## The whole INIT (R120, R124) -/

/-- The five lines of INIT's body that make an event, one after the other. -/
theorem steps_initLines (h : Executes .init s) (hu : s.upc = .line .pinSda) (k : Nat) :
    steps (k + 5) s = steps k { s with
      upc := .setPhase .idle (.success 0#8)
      mem := Memory.set (Memory.set (Memory.set s.mem (regAddr s.cfg .baud) s.cfg.baudValue)
        (regAddr s.cfg .ctrla) s.cfg.layout.ctrlaEnableMaster) (regAddr s.cfg .status) s.cfg.layout.statusForceIdle
      trace := .write .status s.cfg.layout.statusForceIdle :: .write .ctrla s.cfg.layout.ctrlaEnableMaster ::
        .write .baud s.cfg.baudValue :: .pin .scl .inputPullup :: .pin .sda .inputPullup :: s.trace } := by
  have atScl := h.goTo_apply (.line .pinScl) (.pin .sda)
  have atBaud := atScl.goTo_apply (.line .wrBaud) (.pin .scl)
  have atCtrla := atBaud.goTo_apply (.line .wrCtrla) (.write .baud s.cfg.baudValue)
  have atStatus := atCtrla.goTo_apply (.line .wrStatus) (.write .ctrla s.cfg.layout.ctrlaEnableMaster)
  rw [h.steps_line _ .pinSda hu, atScl.steps_line _ .pinScl rfl,
    atBaud.steps_line (e := .write .baud s.cfg.baudValue) _ .wrBaud rfl,
    atCtrla.steps_line (e := .write .ctrla s.cfg.layout.ctrlaEnableMaster) _ .wrCtrla rfl,
    atStatus.steps_line (e := .write .status s.cfg.layout.statusForceIdle) _ .wrStatus rfl]
  simp [goTo, pinConfig, memWrite, regAddr]

/-- Settles O31: acceptance, the five lines that make the events, and the two steps that end the command. -/
theorem initRunsToCompletion : Obligations.InitRunsToCompletion := by
  intro s h
  have hx : Executes .init (acceptedState .init (.line .pinSda) s.pollCnt s) := executes_acceptedState h _ _
  refine completesIn_of_body (k := 2 + 5) (cnt := s.pollCnt) h ?_
  exact (steps_initLines hx rfl 2).trans
    (Executes.steps_ending (i := .init) ⟨hx.quiet, hx.busy, hx.decodes⟩ rfl)

/-! ## Interrupts (R125) -/

/-- Settles O49: INIT alone writes CTRLA, and bits 7 and 6 of the byte it writes are RIEN and WIEN, which are 0. -/
theorem noInterruptIsEverEnabled : Obligations.NoInterruptIsEverEnabled := by
  intro s t v h hlayout hs ht
  obtain ⟨i, hr, rfl, rfl⟩ := (registersHaveTheirWriters s t h hs).1 .ctrla v ht
  rw [hlayout]
  exact ⟨hr, by decide, by decide⟩

end Sys2Proof.Machine
end

section
/-! A whole command from its acceptance on: where the block stands after some steps, with the events made so far.  A run
of a command is a chain of these, one lemma per kind of place: a line, a poll loop, the end. -/

namespace Sys2Proof.Machine

variable {s : State}

/-! ## The coming answers by number -/

/-- The first of the coming answers. -/
theorem NextAnswers.left_of_append {xs ys : List Byte} (h : NextAnswers s (xs ++ ys)) : NextAnswers s xs :=
  ((answeredBy_append xs ys _ _).1 h).1

/-- The next answer of a state that has used up `k` answers of `s`. -/
theorem answer_eq_nthAnswer {t : State} {k : Nat} (ha : t.answers = s.answers.drop k) (hd : t.draws = s.draws + k) :
    t.answer = s.nthAnswer k := by
  cases hk : s.answers[k]? <;> simp [State.answer, State.nthAnswer, ha, hd, List.headD_eq_head?_getD, hk]

theorem NextAnswers.nthAnswer_eq {xs ys : List Byte} {b : Byte} (h : NextAnswers s (xs ++ b :: ys)) :
    s.nthAnswer xs.length = b := by
  have hb := nextAnswers_afterReads xs (b :: ys) 0 h
  exact (answer_eq_nthAnswer rfl rfl).symm.trans hb.1

/-! ## What an effect adds -/

/-- The events an effect makes, when the next answer is `b`. -/
def Effect.events (b : Byte) : Effect → List Event
  | .pin line => [.pin line .inputPullup]
  | .write r v => [.write r v]
  | .read r => [.read r b]
  | _ => []

/-- PRC after an effect. -/
def Effect.countAfter (c : Count) : Effect → Count
  | .count d => d
  | _ => c

/-- PHASE after an effect. -/
def Effect.phaseAfter (p : Phase) : Effect → Phase
  | .phase q => q
  | _ => p

/-! ## A command on its way -/

/-- The state inside command `i` that was accepted in `s` and has made the events `evs` (oldest first), with PHASE at
`p` and PRC at `c`: what `ended` says of the state after the command, before its response.  The place is left open. -/
def midway (i : Instr) (s : State) (p : Phase) (c : Count) (evs : List Event) (cnt : Nat) : State :=
  { s with
    prc := c
    phase := p
    busy := true
    cmd := encode i
    fault := s.fault || !legalIn i s.phase
    faultCause := if s.fault || legalIn i s.phase then s.faultCause else .phaseMisuse
    pollCnt := cnt
    mem := evs.foldl (fun m e => e.store s.cfg m) s.mem
    trace := evs.reverse ++ s.trace
    port := none
    answers := s.answers.drop (readCount evs)
    draws := s.draws + readCount evs }

variable {i : Instr} {k cnt : Nat} {u v : Upc} {p : Phase} {c : Count} {evs : List Event}

theorem executes_midway (hh : s.host = []) : Executes i (goTo u (midway i s p c evs cnt)) :=
  ⟨hh, rfl, decodeGivesBackEveryEncodedCommand i⟩

theorem midway_answer : (goTo u (midway i s p c evs cnt)).answer = s.nthAnswer (readCount evs) :=
  answer_eq_nthAnswer rfl rfl

/-- An effect adds its events. -/
theorem Effect.apply_midway (e : Effect) :
    goTo v (e.apply (goTo u (midway i s p c evs cnt))) =
      goTo v (midway i s (e.phaseAfter p) (e.countAfter c) (evs ++ e.events (s.nthAnswer (readCount evs)))
        (goTo u (midway i s p c evs cnt)).pollCnt) := by
  cases e with
  | none | count d | phase q => simp [goTo, midway, setPrc, setPhase, events, countAfter, phaseAfter]
  | pin line => simp [goTo, midway, pinConfig, events, countAfter, phaseAfter, readCount]
  | write r b => simp [goTo, midway, memWrite, events, countAfter, phaseAfter, readCount]
  | read r =>
    simp only [apply_read, memRead, midway_answer]
    simp [goTo, midway, events, countAfter, phaseAfter, readCount, Nat.add_assoc]

/-- Reads of STATUS add their events. -/
theorem afterReads_midway (bs : List Byte) (cnt' : Nat) :
    goTo v (afterReads bs cnt' (goTo u (midway i s p c evs cnt))) =
      goTo v (midway i s p c (evs ++ statusReads bs) cnt') := by
  simp [goTo, midway, afterReads, Nat.add_assoc]

/-- After `k` steps, and one more out of phase, command `i` presented in `s` stands at `u` with the events `evs` made,
for some value of the invisible POLL_CNT (which a poll loop's entry clears). -/
structure ArrivesIn (k : Nat) (i : Instr) (s : State) (u : Upc) (p : Phase) (c : Count) (evs : List Event) : Prop where
  quiet : s.host = []
  run : ∃ cnt, steps (k + raiseSteps i s.phase) s = .next (goTo u (midway i s p c evs cnt))

/-- `j` steps from a place of the command to another. -/
theorem ArrivesIn.extend {j : Nat} {q : Phase} {d : Count} {evs' : List Event} (h : ArrivesIn k i s u p c evs)
    (hj : ∀ cnt, ∃ cnt', steps j (goTo u (midway i s p c evs cnt)) = .next (goTo v (midway i s q d evs' cnt'))) :
    ArrivesIn (k + j) i s v q d evs' := by
  obtain ⟨cnt, hk⟩ := h.run
  obtain ⟨cnt', hj⟩ := hj cnt
  exact ⟨h.quiet, cnt', by rw [Nat.add_right_comm, steps_add _ j hk, hj]⟩

/-- Acceptance, with the record of a misuse, leads to the command's body. -/
theorem arrivesIn_body (h : Presented i s) : ArrivesIn 1 i s (bodyEntry s.cfg i) s.phase s.prc [] := by
  refine ⟨h.1, s.pollCnt, (steps_accept i h (decodeGivesBackEveryEncodedCommand i)).trans ?_⟩
  simp [acceptedState, goTo, midway, readCount]

/-- One line of the command. -/
theorem ArrivesIn.line {l : Line} {e : Effect} (h : ArrivesIn k i s (.line l) p c evs)
    (hl : LineStep s.cfg c (s.nthAnswer (readCount evs)) i l e v) :
    ArrivesIn (k + 1) i s v (e.phaseAfter p) (e.countAfter c) (evs ++ e.events (s.nthAnswer (readCount evs))) :=
  h.extend fun cnt => ⟨_, by
    rw [← midway_answer (i := i) (u := .line l) (p := p) (c := c) (cnt := cnt)] at hl
    rw [(executes_midway h.quiet).steps_line 0 hl rfl, steps_zero, e.apply_midway]⟩

/-- A poll loop whose snapshots are `waits` and, satisfying its predicate, `g`. -/
theorem ArrivesIn.poll {w : Wait} {before waits after : List Byte} {g : Byte} (h : ArrivesIn k i s (.poll w) p c evs)
    (ha : afterPoll i s.cfg w = some v) (hr : readCount evs = before.length)
    (hn : NextAnswers s (before ++ (waits ++ [g] ++ after))) (hp : PollEnds s.cfg w waits g)
    (hl : LimitAllows s.cfg waits.length) :
    ArrivesIn (k + (waits.length + 1)) i s v p c (evs ++ statusReads (waits ++ [g])) :=
  h.extend fun cnt => by
    have hx := executes_midway (i := i) (u := .poll w) (p := p) (c := c) (evs := evs) (cnt := cnt) h.quiet
    have hcoming : NextAnswers (goTo (.poll w) (midway i s p c evs cnt)) (waits ++ [g]) :=
      (nextAnswers_append before _ (by simp [midway, hr]) (by simp [midway, hr]) hn).left_of_append
    obtain ⟨cnt', hsteps⟩ := steps_poll i w v waits g _ hx.quiet hx.busy hx.decodes rfl ha hcoming hp
      fun l hlim => by
        have hentry := goTo_poll_pollCnt w (midway i s p c evs cnt) l hlim
        have hwaits := hl l hlim
        omega
    exact ⟨cnt', by rw [hsteps, afterReads_midway]⟩

/-- The last update of PHASE and the response end the command. -/
theorem ArrivesIn.completes {q : Phase} {r : Reply} (h : ArrivesIn k i s (.setPhase q r) p c evs) :
    CompletesIn (k + 2) i s r q c evs := by
  obtain ⟨cnt, hk⟩ := h.run
  exact ⟨cnt, by
    rw [Nat.add_right_comm, steps_add _ 2 hk, (executes_midway h.quiet).steps_ending rfl]
    rfl⟩

/-- A wait for bus idle ends the command in IDLE with the reply it carries. -/
theorem ArrivesIn.completes_busIdle {r : Reply} {before idles : List Byte} {z : Byte}
    (h : ArrivesIn k i s (.poll (.busIdle r)) p c evs)
    (ha : afterPoll i s.cfg (.busIdle r) = some (.setPhase .idle r)) (hr : readCount evs = before.length)
    (hn : NextAnswers s (before ++ (idles ++ [z]))) (hidles : ∀ b ∈ idles, busIdle s.cfg.layout b = false)
    (hz : busIdle s.cfg.layout z = true) (hl : LimitAllows s.cfg idles.length) :
    CompletesIn (k + idles.length + 3) i s r .idle c (evs ++ statusReads (idles ++ [z])) :=
  (h.poll (after := []) ha hr (by simpa using hn) ⟨hidles, hz⟩ hl).completes

end Sys2Proof.Machine
end

section
/-! START and RESTART (41_start_restart.md R130-R141): the lines of their body, and the three outcomes of a whole
command in both designs. -/

namespace Sys2Proof.Machine

variable {s : State} {i : Instr} {a : PeerAddr} {n : Count}

/-! ## RESTART is START (R140, R141) -/

/-- Settles O30: acceptance and the record of a misuse ask only for what the two commands share, the row of R28 and the
entry of the body; the body is one definition. -/
theorem restartStepsAsStart : Obligations.RestartStepsAsStart := by
  intro a n s
  have haccept : accept (.restart a n) s = accept (.start a n) s := rfl
  have hraise : ∀ c, raiseThenBody c (.restart a n) s = raiseThenBody c (.start a n) s := fun _ => rfl
  cases hu : s.upc with
  | idle => rw [exec_idle _ hu, exec_idle _ hu, haccept]
  | raise c => rw [exec_raise _ c hu, exec_raise _ c hu, hraise]
  | line | poll | setPhase | respond => simp [exec, execRestart, execStart, hu]

/-! ## What the operands and the snapshots decide -/

theorem openedPhase_eq (n : Count) : openedPhase n = if n = 0#16 then .writing else .reading := by
  by_cases hn : n = 0#16 <;> simp [openedPhase, isRead, hn]

theorem afterS1_of_clear {c : Config} {s1 : Byte} (ha : arblost c.layout s1 = false) (hb : buserr c.layout s1 = false) :
    afterS1 c s1 = .line .rdS2 := by
  simp [afterS1, errorFlagged, ha, hb]

theorem afterS1_of_flagged {c : Config} {s1 : Byte} (h : arblost c.layout s1 = true ∨ buserr c.layout s1 = true) :
    afterS1 c s1 = addressError c (errorCause c.layout s1) := by
  simp [afterS1, errorFlagged, h]

/-- Outcome 1 in both designs (R132). -/
theorem addressError_newer {c : Config} {cause : Cause} (h : c.busIdleWait = true) :
    addressError c cause = .poll (.busIdle (.failure cause)) := by
  simp [addressError, h]

theorem addressError_older {c : Config} {cause : Cause} (h : c.busIdleWait = false) :
    addressError c cause = .setPhase .unsettled (.failure cause) := by
  simp [addressError, h]

theorem afterS2_of_nack {c : Config} {s2 : Byte} (h : rxnack c.layout s2 = true) : afterS2 c n s2 = addressNack c := by
  simp [afterS2, h]

theorem afterS2_of_ack {c : Config} {s2 : Byte} (h : rxnack c.layout s2 = false) :
    afterS2 c n s2 = .setPhase (openedPhase n) (.success 0#8) := by
  simp [afterS2, h]

/-- Outcome 2 in both designs (R133). -/
theorem addressNack_newer {c : Config} (h : c.busIdleWait = true) :
    addressNack c = .line (.wrStop (.failure .addressNack)) := by
  simp [addressNack, h]

theorem addressNack_older {c : Config} (h : c.busIdleWait = false) :
    addressNack c = .setPhase .unsettled (.failure .addressNack) := by
  simp [addressNack, h]

/-- The count line keeps PHASE, makes no event and stores a nonzero count (R130). -/
theorem setPrc_effect (n c : Count) (p : Phase) (b : Byte) :
    (if isRead n then Effect.count n else .none).phaseAfter p = p ∧
    (if isRead n then Effect.count n else .none).events b = [] ∧
    (if isRead n then Effect.count n else .none).countAfter c = if n = 0#16 then c else n := by
  by_cases hn : n = 0#16 <;> simp [isRead, hn, Effect.phaseAfter, Effect.events, Effect.countAfter]

/-! ## The lines (R130, R140) -/

/-- Entering a poll loop moves the place, and POLL_CNT under a limit. -/
theorem goTo_poll_eq (w : Wait) (s : State) :
    goTo (.poll w) s = { s with upc := .poll w, pollCnt := if s.cfg.pollLimit = none then s.pollCnt else 0 } := by
  cases h : s.cfg.pollLimit <;> simp [goTo, h]

/-- Settles O25: each line has its effect and leads where R130 says; only a line that enters a poll loop moves
POLL_CNT. -/
theorem startAndRestartLines : Obligations.StartAndRestartLines := by
  intro i a n s hi
  refine ⟨fun hu => ?_, fun hu => ?_, fun hu => ?_, fun hu => ?_, fun hu => ?_, fun r hu => ?_, fun p r hu => ?_⟩
  · rw [exec_setPrc hi hu, goTo_eq_of_not_poll _ (by simp)]
    by_cases hn : n = 0#16 <;> simp [isRead, hn, setPrc]
  · exact (LineStep.addressing hi).exec_eq hu
  · rw [(LineStep.wrAddr hi).exec_eq hu, goTo_poll_eq]
    rfl
  · exact ⟨_, (LineStep.startS1 hi).exec_eq hu, rfl, rfl, rfl, rfl, rfl, rfl, rfl⟩
  · refine ⟨_, (LineStep.startS2 hi).exec_eq hu, rfl, rfl, rfl, rfl, rfl, rfl, ?_⟩
    rw [← openedPhase_eq]
    rfl
  · rw [(LineStep.startStop hi r).exec_eq hu, goTo_poll_eq]
    rfl
  · exact (ExecStep.phaseSet p r hu).exec_eq

/-! ## The common beginning of every outcome (R131, R135) -/

/-- The accesses up to a snapshot list: the address byte and reads of STATUS (R135). -/
def addressEvents (c : Config) (a : PeerAddr) (n : Count) (bs : List Byte) : List Event :=
  .write .addr (addressByte c.layout a (isRead n)) :: statusReads bs

@[simp] theorem readCount_addressEvents (c : Config) (a : PeerAddr) (n : Count) (bs : List Byte) :
    readCount (addressEvents c a n bs) = bs.length :=
  readCount_statusReads bs

@[simp] theorem addressEvents_append (c : Config) (a : PeerAddr) (n : Count) (xs ys : List Byte) :
    addressEvents c a n xs ++ statusReads ys = addressEvents c a n (xs ++ ys) := by
  simp [addressEvents]

/-- One more read of STATUS, which decides where the command goes on. -/
theorem ArrivesIn.readStatus {k : Nat} {l : Line} {p : Phase} {c : Count} {bs after : List Byte} {b : Byte}
    {f : Byte → Upc}
    (h : ArrivesIn k i s (.line l) p c (addressEvents s.cfg a n bs)) (hn : NextAnswers s (bs ++ b :: after))
    (hl : ∀ b, LineStep s.cfg c b i l (.read .status) (f b)) :
    ArrivesIn (k + 1) i s (f b) p c (addressEvents s.cfg a n (bs ++ [b])) := by
  have hb : s.nthAnswer (readCount (addressEvents s.cfg a n bs)) = b := by simpa using hn.nthAnswer_eq
  have hread := h.line (hl _)
  rw [hb] at hread
  rw [← addressEvents_append]
  exact hread

/-- From acceptance to the test on s1: the count, PHASE, the address byte, the poll, and the read of s1. -/
theorem arrivesIn_afterS1 {waits after : List Byte} {g s1 : Byte} (hi : Opens i a n) (h : Presented i s)
    (hn : NextAnswers s (waits ++ g :: s1 :: after)) (hp : PollEnds s.cfg .addrDone waits g)
    (hl : LimitAllows s.cfg waits.length) :
    ArrivesIn (waits.length + 6) i s (afterS1 s.cfg s1) .addressing (if n = 0#16 then s.prc else n)
      (addressEvents s.cfg a n (waits ++ [g, s1])) := by
  have hbody : ArrivesIn 1 i s (.line .setPrc) s.phase s.prc [] := by
    have hentry := arrivesIn_body h
    rcases hi with rfl | rfl <;> exact hentry
  have hcount : ArrivesIn 2 i s (.line .addressing) s.phase (if n = 0#16 then s.prc else n) [] := by
    obtain ⟨hphase, hevents, hprc⟩ := setPrc_effect n s.prc s.phase (s.nthAnswer 0)
    simpa [hphase, hprc, readCount, hevents] using hbody.line (.setPrc hi)
  have haddress : ArrivesIn 4 i s (.poll .addrDone) .addressing (if n = 0#16 then s.prc else n)
      (addressEvents s.cfg a n []) :=
    (hcount.line (.addressing hi)).line (.wrAddr hi)
  have hpoll := haddress.poll (before := []) (after := s1 :: after) (hi.afterPoll_eq ..) rfl (by simpa using hn) hp hl
  have hs1 := hpoll.readStatus (bs := waits ++ [g]) (by simpa using hn) fun _ => .startS1 hi
  rw [show waits.length + 6 = 4 + (waits.length + 1) + 1 by omega]
  simpa using hs1

/-- With no error flag in s1 the next step reads s2 (R136). -/
theorem arrivesIn_afterS2 {waits after : List Byte} {g s1 s2 : Byte} (hi : Opens i a n) (h : Presented i s)
    (hn : NextAnswers s (waits ++ g :: s1 :: s2 :: after)) (hp : PollEnds s.cfg .addrDone waits g)
    (hl : LimitAllows s.cfg waits.length) (hlost : arblost s.cfg.layout s1 = false)
    (herr : buserr s.cfg.layout s1 = false) :
    ArrivesIn (waits.length + 7) i s (afterS2 s.cfg n s2) .addressing (if n = 0#16 then s.prc else n)
      (addressEvents s.cfg a n (waits ++ [g, s1, s2])) := by
  have hs1 := arrivesIn_afterS1 hi h hn hp hl
  rw [afterS1_of_clear hlost herr] at hs1
  have hs2 := hs1.readStatus (b := s2) (after := after) (by simpa using hn) fun _ => .startS2 hi
  simpa using hs2

/-! ## The three outcomes (R132-R134) -/

/-- Settles O32: the poll, s1 with no error flag and s2 with an acknowledge lead to the PHASE the count selects. -/
theorem startOpensTheTransaction : Obligations.StartOpensTheTransaction := by
  intro i a n s waits g s1 s2 hi h hn hp hl hlost herr hack
  have hs2 := arrivesIn_afterS2 hi h hn hp hl hlost herr
  rw [afterS2_of_ack hack, openedPhase_eq] at hs2
  exact hs2.completes

/-- Settles O33: an error flag in s1 leads to the wait for bus idle in the newer design, and straight to UNSETTLED in
the older one. -/
theorem startReportsArbitrationLossOrBusError : Obligations.StartReportsArbitrationLossOrBusError := by
  intro i a n s waits g s1 hi h hn hp hl hflag
  have hs1 := arrivesIn_afterS1 hi h hn hp hl
  rw [afterS1_of_flagged hflag] at hs1
  refine ⟨fun hnew idles z hn hidles hz hlim => ?_, fun hold => ?_⟩
  · rw [addressError_newer hnew] at hs1
    have hend := hs1.completes_busIdle (before := waits ++ [g, s1]) (Opens.afterPoll_eq hi ..) (by simp)
      (by simpa using hn) hidles hz hlim
    rw [addressEvents_append, List.append_assoc] at hend
    rw [show waits.length + idles.length + 9 = waits.length + 6 + idles.length + 3 by omega]
    exact hend
  · rw [addressError_older hold] at hs1
    exact hs1.completes

/-- Settles O34: a NACK in s2 leads to CMD_STOP and the wait for bus idle in the newer design, and straight to UNSETTLED
in the older one. -/
theorem startReportsAddressNack : Obligations.StartReportsAddressNack := by
  intro i a n s waits g s1 s2 hi h hn hp hl hlost herr hnack
  have hs2 := arrivesIn_afterS2 hi h hn hp hl hlost herr
  rw [afterS2_of_nack hnack] at hs2
  refine ⟨fun hnew idles z hn hidles hz hlim => ?_, fun hold => ?_⟩
  · rw [addressNack_newer hnew] at hs2
    have hstop := hs2.line (.startStop hi _)
    have hend := hstop.completes_busIdle (before := waits ++ [g, s1, s2]) (Opens.afterPoll_eq hi ..)
      (by simp [Effect.events, readCount]) (by simpa using hn) hidles hz hlim
    rw [List.append_assoc] at hend
    rw [show waits.length + idles.length + 11 = waits.length + 7 + 1 + idles.length + 3 by omega]
    exact hend
  · rw [addressNack_older hold] at hs2
    exact hs2.completes

end Sys2Proof.Machine
end

section
/-! WRITE, READ and READLAST (42_byte_transfer.md R150-R171): the lines of their bodies, and the whole commands. -/

namespace Sys2Proof.Machine

variable {s : State} {i : Instr} {k : Nat} {u : Upc} {p : Phase} {c : Count} {evs : List Event}

/-! ## What the snapshots and the count decide -/

/-- The acknowledge bit selects the response (R152, R153). -/
theorem ackReply_eq (l : Layout) (b : Byte) :
    ackReply l b = .respond (if rxnack l b then .failure .byteNack else .success 0#8) := by
  cases h : rxnack l b <;> simp [ackReply, h]

theorem afterWriteS1_of_flagged {l : Layout} {s1 : Byte} (h : arblost l s1 = true ∨ buserr l s1 = true) :
    afterWriteS1 l s1 = .setPhase .unsettled (.failure (errorCause l s1)) := by
  simp [afterWriteS1, errorFlagged, h]

theorem afterWriteS1_of_clear {l : Layout} {s1 : Byte} (hlost : arblost l s1 = false) (herr : buserr l s1 = false) :
    afterWriteS1 l s1 = .line .rdS2 := by
  simp [afterWriteS1, errorFlagged, hlost, herr]

/-- Variant B tests ARBLOST before BUSERR (R152). -/
theorem afterWriteS1_eq (l : Layout) (s1 : Byte) :
    afterWriteS1 l s1 =
      if arblost l s1 then .setPhase .unsettled (.failure .arbitrationLost)
      else if buserr l s1 then .setPhase .unsettled (.failure .busError) else .line .rdS2 := by
  cases hlost : arblost l s1 with
  | true => simp [afterWriteS1_of_flagged (.inl hlost), errorCause, hlost]
  | false =>
    cases herr : buserr l s1 with
    | true => simp [afterWriteS1_of_flagged (.inr herr), errorCause, hlost]
    | false => simp [afterWriteS1_of_clear hlost herr]

theorem decrement_eq_ofNat (c : Count) : decrement c = BitVec.ofNat 16 (c.toNat - 1) :=
  BitVec.eq_of_toNat_eq (by rw [decrement_toNat, BitVec.toNat_ofNat]; omega)

/-- The final byte: no count is left after the decrement (R161). -/
theorem decrement_eq_zero_iff (c : Count) : decrement c = 0#16 ↔ c.toNat ≤ 1 := by
  rw [← BitVec.toNat_inj, decrement_toNat, BitVec.toNat_ofNat]
  omega

/-! ## The lines (R152, R153, R160, R170) -/

/-- Settles O26: each line has its effect and leads where its variant says; only variant B's load enters a poll loop. -/
theorem writeLines : Obligations.WriteLines := by
  intro b s
  refine ⟨fun hu => ?_, fun hu => ?_, fun hu => ?_, fun hu hv => ?_, fun p r hu => ?_⟩
  · cases hv : s.cfg.writeVariant with
    | b => exact (LineStep.primeB hv).exec_eq hu
    | a => exact (LineStep.primeA hv).exec_eq hu
  · cases hv : s.cfg.writeVariant with
    | b =>
      rw [(LineStep.loadB hv).exec_eq hu, goTo_poll_eq]
      by_cases hlim : s.cfg.pollLimit = none <;> simp [memWrite, hlim]
    | a =>
      rw [(LineStep.loadA hv).exec_eq hu, goTo_eq_of_not_poll _ (by simp)]
      simp [memWrite]
  · cases hv : s.cfg.writeVariant with
    | b =>
      exact ⟨_, (LineStep.writeS1B hv).exec_eq hu, rfl, rfl, rfl, rfl, rfl, afterWriteS1_eq ..⟩
    | a => exact ⟨_, (LineStep.writeS1A hv).exec_eq hu, rfl, rfl, rfl, rfl, rfl, rfl⟩
  · exact ⟨_, (LineStep.writeS2B hv).exec_eq hu, rfl, rfl, rfl, rfl, rfl, rfl⟩
  · exact (ExecStep.phaseSet p r hu).exec_eq

/-- Settles O27: each line has its effect; the count's line enters the poll loop, and the acknowledge of READ is chosen
by the count after it. -/
theorem readAndReadlastLines : Obligations.ReadAndReadlastLines := by
  intro s
  refine ⟨fun hu => ⟨?_, ?_⟩, fun i hi hu => ?_, fun d hu hp => ?_, fun i d hi hu => ?_, fun i p r _ hu => ?_⟩
  · rw [LineStep.decrement.exec_eq hu, goTo_poll_eq]
    by_cases hz : s.prc = 0#16 <;> simp [decrement, setPrc, hz]
  · rw [LineStep.zero.exec_eq hu, goTo_poll_eq]
    rfl
  · exact (LineStep.capture hi).exec_eq hu
  · exact (LineStep.ack d hp).exec_eq hu
  · exact (LineStep.nack d hi).exec_eq hu
  · exact (ExecStep.phaseSet p r hu).exec_eq

/-! ## A write, a read and the response on the way -/

/-- A line that writes a register keeps PHASE and PRC. -/
theorem ArrivesIn.write {l : Line} {r : Reg} {v : Byte} (h : ArrivesIn k i s (.line l) p c evs)
    (hl : LineStep s.cfg c (s.nthAnswer (readCount evs)) i l (.write r v) u) :
    ArrivesIn (k + 1) i s u p c (evs ++ [.write r v]) :=
  h.line hl

/-- A line that reads a register, with the answer by its number. -/
theorem ArrivesIn.read {l : Line} {r : Reg} {before after : List Byte} {b : Byte} {f : Byte → Upc}
    (h : ArrivesIn k i s (.line l) p c evs) (hr : readCount evs = before.length)
    (hn : NextAnswers s (before ++ b :: after)) (hl : ∀ b, LineStep s.cfg c b i l (.read r) (f b)) :
    ArrivesIn (k + 1) i s (f b) p c (evs ++ [.read r b]) := by
  have hb : s.nthAnswer (readCount evs) = b := by rw [hr, hn.nthAnswer_eq]
  have hread := h.line (hl _)
  rw [hb] at hread
  exact hread

/-- The response ends the command, with PHASE as it stands. -/
theorem ArrivesIn.completes_respond {r : Reply} (h : ArrivesIn k i s (.respond r) p c evs) :
    CompletesIn (k + 1) i s r p c evs := by
  obtain ⟨cnt, hk⟩ := h.run
  have hx := executes_midway (i := i) (u := .respond r) (p := p) (c := c) (evs := evs) (cnt := cnt) h.quiet
  have hlast := step_respond i r hx.quiet hx.busy hx.decodes rfl
  exact ⟨cnt, by
    rw [Nat.add_right_comm, steps_add _ 1 hk, steps_succ 0 hlast, steps_zero]
    rfl⟩

/-! ## The whole WRITE (R152, R153) -/

/-- Variant B up to the test on s1: prime, load, poll, and the read of s1. -/
theorem arrivesIn_afterWriteS1 {b : Byte} {waits after : List Byte} {g s1 : Byte} (hv : s.cfg.writeVariant = .b)
    (h : Presented (.write b) s) (hn : NextAnswers s (waits ++ g :: s1 :: after)) (hp : PollEnds s.cfg .wif waits g)
    (hl : LimitAllows s.cfg waits.length) :
    ArrivesIn (waits.length + 5) (.write b) s (afterWriteS1 s.cfg.layout s1) s.phase s.prc
      (.write .ctrlb s.cfg.layout.cmdPrime :: .write .data b :: statusReads (waits ++ [g, s1])) := by
  have hentry := arrivesIn_body h
  rw [show bodyEntry s.cfg (.write b) = .line .wrPrime by simp [bodyEntry, writeEntry, hv]] at hentry
  have hload := (hentry.write (.primeB hv)).write (.loadB hv)
  have hpoll := hload.poll (before := []) (after := s1 :: after) (v := .line .rdS1)
    (by simp [afterPoll, writePoll, hv]) rfl (by simpa using hn) hp hl
  have hs1 := hpoll.read (before := waits ++ [g]) (by simp [readCount]) (by simpa using hn)
    fun _ => .writeS1B hv
  rw [show waits.length + 5 = 3 + (waits.length + 1) + 1 by omega]
  simpa [statusReads] using hs1

/-- Settles O35: an error flag in s1 leads to UNSETTLED; with none, s2 decides the response and PHASE stays. -/
theorem writeVariantBRuns : Obligations.WriteVariantBRuns := by
  intro b s waits g s1 hv h hn hp hl
  refine ⟨fun hflag => ?_, fun s2 hn2 hlost herr => ?_⟩
  · have hs1 := arrivesIn_afterWriteS1 hv h hn hp hl
    rw [afterWriteS1_of_flagged hflag] at hs1
    exact hs1.completes
  · have hs1 := arrivesIn_afterWriteS1 hv h hn2 hp hl
    rw [afterWriteS1_of_clear hlost herr] at hs1
    have hs2 := hs1.read (before := waits ++ [g, s1]) (b := s2) (after := []) (by simp [readCount])
      (by simpa using hn2) fun _ => .writeS2B hv
    rw [ackReply_eq] at hs2
    simpa [statusReads] using hs2.completes_respond

/-- Settles O36: variant A polls first, and its one snapshot after the two writes decides the response. -/
theorem writeVariantARuns : Obligations.WriteVariantARuns := by
  intro b s waits g s1 hv h hn hp hl
  have hentry := arrivesIn_body h
  rw [show bodyEntry s.cfg (.write b) = .poll .wif by simp [bodyEntry, writeEntry, hv]] at hentry
  have hpoll := hentry.poll (before := []) (after := [s1]) (v := .line .wrData)
    (by simp [afterPoll, writePoll, hv]) rfl (by simpa using hn) hp hl
  have hprime := (hpoll.write (.loadA hv)).write (.primeA hv)
  have hs1 := hprime.read (before := waits ++ [g]) (b := s1) (after := []) (by simp [readCount])
    (by simpa using hn) fun _ => .writeS1A hv
  rw [ackReply_eq] at hs1
  rw [show waits.length + 6 = 1 + (waits.length + 1) + 1 + 1 + 1 + 1 by omega]
  simpa using hs1.completes_respond

/-! ## The whole READ and READLAST (R160, R170) -/

/-- What the two commands share: with the count at `c`, the poll and the capture of the byte. -/
theorem ArrivesIn.receive {waits : List Byte} {g d : Byte} (hi : Receives i)
    (h : ArrivesIn k i s (.poll .rif) p c []) (hn : NextAnswers s (waits ++ [g, d]))
    (hp : PollEnds s.cfg .rif waits g) (hl : LimitAllows s.cfg waits.length) :
    ArrivesIn (waits.length + k + 2) i s (.line (.wrAck d)) p c (statusReads (waits ++ [g]) ++ [.read .data d]) := by
  have hpoll := h.poll (before := []) (after := [d]) (v := .line .rdData) (by rcases hi with rfl | rfl <;> rfl) rfl
    (by simpa using hn) hp hl
  have hbyte := hpoll.read (before := waits ++ [g]) (b := d) (after := []) (by simp) (by simpa using hn)
    fun _ => .capture hi
  rw [show waits.length + k + 2 = k + (waits.length + 1) + 1 by omega]
  exact hbyte

/-- The NACK of the final byte and the end in READ_ENDED. -/
theorem ArrivesIn.completes_nack {d : Byte} (h : ArrivesIn k i s (.line (.wrAck d)) p c evs)
    (hi : i = .read ∧ c = 0#16 ∨ i = .readlast) :
    CompletesIn (k + 3) i s (.success d) .readEnded c (evs ++ [.write .ctrlb s.cfg.layout.cmdNack]) :=
  (h.write (.nack d hi)).completes

/-- Settles O37: the count after the decrement selects the ACK, which keeps PHASE, or the NACK. -/
theorem readRunsAndDecidesTheAcknowledge : Obligations.ReadRunsAndDecidesTheAcknowledge := by
  intro s waits g d h hn hp hl
  have hcount : ArrivesIn 2 .read s (.poll .rif) s.phase (decrement s.prc) [] := (arrivesIn_body h).line .decrement
  have hbyte := hcount.receive (.inl rfl) hn hp hl
  refine ⟨fun hmore => ?_, fun hfinal => ?_⟩
  · have hne : decrement s.prc ≠ 0#16 := by rw [Ne, decrement_eq_zero_iff]; omega
    rw [← decrement_eq_ofNat]
    simpa using (hbyte.write (.ack d hne)).completes_respond
  · rw [(decrement_eq_zero_iff s.prc).2 hfinal] at hbyte
    simpa using hbyte.completes_nack (.inl ⟨rfl, rfl⟩)

/-- Settles O38: the count is set to 0 whatever it was, and the byte is NACKed. -/
theorem readlastRunsAndNacks : Obligations.ReadlastRunsAndNacks := by
  intro s waits g d h hn hp hl
  have hcount : ArrivesIn 2 .readlast s (.poll .rif) s.phase 0#16 [] := (arrivesIn_body h).line .zero
  simpa using (hcount.receive (.inr rfl) hn hp hl).completes_nack (.inr rfl)

end Sys2Proof.Machine
end

section
/-! STOP (43_stop.md R180-R183): the lines of its body, and the whole command in both designs. -/

namespace Sys2Proof.Machine

variable {s : State}

/-! ## What follows the write of CMD_STOP (R180, R182) -/

theorem afterStop_newer {c : Config} {r : Reply} (h : c.busIdleWait = true) : afterStop c r = .poll (.busIdle r) := by
  simp [afterStop, h]

theorem afterStop_older {c : Config} {r : Reply} (h : c.busIdleWait = false) : afterStop c r = .setPhase .idle r := by
  simp [afterStop, h]

/-! ## The lines (R180) -/

/-- Settles O28: the write of CMD_STOP leads where the design says, and moves POLL_CNT only in the newer design, where
it enters the poll loop. -/
theorem stopLines : Obligations.StopLines := by
  intro s
  refine ⟨fun r hu => ?_, fun p r hu => (ExecStep.phaseSet p r hu).exec_eq⟩
  rw [(LineStep.stop r).exec_eq hu]
  cases hwait : s.cfg.busIdleWait with
  | true =>
    rw [afterStop_newer hwait, goTo_poll_eq]
    by_cases hlim : s.cfg.pollLimit = none <;> simp [memWrite, hlim]
  | false =>
    rw [afterStop_older hwait, goTo_eq_of_not_poll _ (by simp)]
    simp [memWrite]

/-! ## The whole STOP (R180-R183) -/

/-- Acceptance in any PHASE and the write of CMD_STOP, which both designs make. -/
theorem arrivesIn_afterStop (h : Presented .stop s) :
    ArrivesIn 2 .stop s (afterStop s.cfg (.success 0#8)) s.phase s.prc [.write .ctrlb s.cfg.layout.cmdStop] :=
  (arrivesIn_body h).write (.stop _)

/-- Settles O39: after CMD_STOP the newer design waits for bus idle, and the older one goes straight to IDLE. -/
theorem stopRunsInBothDesigns : Obligations.StopRunsInBothDesigns := by
  intro s h
  have hstop := arrivesIn_afterStop h
  refine ⟨fun hnew idles z hn hidles hz hlim => ?_, fun hold => ?_⟩
  · rw [afterStop_newer hnew] at hstop
    have hend := hstop.completes_busIdle (before := []) rfl rfl (by simpa using hn) hidles hz hlim
    rw [show idles.length + 5 = 2 + idles.length + 3 by omega]
    exact hend
  · rw [afterStop_older hold] at hstop
    exact hstop.completes

end Sys2Proof.Machine
end

section
/-! The step of a word that stands for no command, in each of its three places, and what every command's acceptance,
misuse and response are (60_exceptions.md R198-R201, R211). -/

namespace Sys2Proof.Machine

variable {s : State}

/-! ## When the block steps -/

/-- When the host leaves the step to the block, the block steps from what the host's part left. -/
theorem step_of_hostTurn {s' : State} (h : hostTurn s = (s', true)) : step s = blockStep s' := by
  simp [step, h]

/-- Settles O17: in each of the four host situations the host's part takes at most a `pass` off its moves and leaves the
step to the block, which runs the command of its word. -/
theorem stepRunsTheDecodedCommand : Obligations.StepRunsTheDecodedCommand := by
  intro s s' i w hsituation
  obtain ⟨ms, rfl, hturn⟩ : ∃ ms, s' = { s with host := ms } ∧ hostTurn s = (s', true) := by
    obtain ⟨hh, rfl⟩ | ⟨ms, hh, rfl⟩ | ⟨v, ms, hh, hp, rfl⟩ | ⟨ms, hh, hv, rfl⟩ := hsituation
    · exact ⟨_, rfl, by simp [hostTurn, hh]⟩
    · exact ⟨ms, rfl, by simp [hostTurn, hh]⟩
    · exact ⟨_, rfl, by simp [hostTurn, hh, hp]⟩
    · exact ⟨_, rfl, by simp [hostTurn, hh, hv]⟩
  rw [step_of_hostTurn hturn]
  exact ⟨fun hb hd => blockStep_of_busy i hb hd, fun hb hv hp hd => blockStep_of_presented i w hb hv hp hd⟩

/-! ## Acceptance, misuse and response of a command -/

/-- Where acceptance leads, by the row of R28 as a list. -/
theorem afterAccept_eq (i : Instr) (s : State) :
    afterAccept i s = if s.phase ∈ phasesOf i then bodyEntry s.cfg i else .raise .phaseMisuse := by
  simp [afterAccept, mem_phasesOf]

/-- Settles O18: acceptance latches the word and the record of a misuse touches the fault record; neither moves anything
else but the place in the command. -/
theorem acceptanceLatchesAndRecordsMisuse : Obligations.AcceptanceLatchesAndRecordsMisuse := by
  intro i s
  constructor
  · intro w hu hp hb hv
    have hstep : exec i s = .next (goTo (afterAccept i s) (latch w s)) := by
      rw [exec_idle i hu, accept_of_presented i w hp hb hv]
    exact ⟨_, hstep, by simp [hv, afterAccept_eq]⟩
  · intro c hu
    exact ⟨_, exec_raise i c hu, by simp⟩

/-- Settles O23: every command's last place is the shared response, and a take is the host's move alone. -/
theorem respondAndTake : Obligations.RespondAndTake := by
  refine ⟨fun i s r hu => (ExecStep.responded r hu).exec_eq, fun s ms hh hv => ?_⟩
  simp [step, hostTurn, hh, hv]

/-! ## An illegal word (R199) -/

/-- The step that accepts an illegal word. -/
theorem step_acceptIllegal {w : Word} {e : Reject} (hh : s.host = []) (hb : s.busy = false) (hv : s.respValid = false)
    (hp : s.port = some w) (hd : decode w = .error e) : step s = .next (acceptIllegal w s) := by
  have hf : fetch s = some w := by simp [fetch, hb, hv, hp]
  rw [step_of_no_host hh, blockStep_of_illegal hf hd]
  simp [illegalStep, hb]

/-- While BUSY the block works on CMD. -/
theorem fetch_of_busy (hb : s.busy = true) : fetch s = some s.cmd := by
  simp [fetch, hb]

/-- An accepted illegal word takes the block's step. -/
theorem blockStep_of_busy_illegal {e : Reject} (hb : s.busy = true) (hd : decode s.cmd = .error e) :
    blockStep s = illegalTurn s := by
  rw [blockStep_of_illegal (fetch_of_busy hb) hd]
  simp [illegalStep, hb]

/-- The record of an illegal word's fault. -/
theorem step_raiseIllegal {e : Reject} {c : FaultCause} (hh : s.host = []) (hb : s.busy = true)
    (hd : decode s.cmd = .error e) (hu : s.upc = .raise c) : step s = .next (raiseThenRespond c s) := by
  rw [step_of_no_host hh, blockStep_of_busy_illegal hb hd]
  simp [illegalTurn, hu]

/-- The response to an illegal word. -/
theorem step_respondIllegal {e : Reject} {r : Reply} (hh : s.host = []) (hb : s.busy = true)
    (hd : decode s.cmd = .error e) (hu : s.upc = .respond r) : step s = .next (respond r s) := by
  rw [step_of_no_host hh, blockStep_of_busy_illegal hb hd]
  simp [illegalTurn, hu]

/-- Settles O19: the three steps one after the other; none of them is at a poll loop, so POLL_CNT stays too. -/
theorem illegalWordIsRecordedAndAnswered : Obligations.IllegalWordIsRecordedAndAnswered := by
  intro s w e hh hp hb hv hd
  have hraise : step (acceptIllegal w s) = .next (raiseThenRespond .illegalCommand (acceptIllegal w s)) :=
    step_raiseIllegal hh rfl hd rfl
  have hrespond : step (raiseThenRespond .illegalCommand (acceptIllegal w s)) =
      .next (respond (.failure .illegalCommand) (raiseThenRespond .illegalCommand (acceptIllegal w s))) :=
    step_respondIllegal (by simpa [acceptIllegal] using hh) (by simp [acceptIllegal])
      (by simpa [acceptIllegal] using hd) rfl
  rw [steps_succ 2 (step_acceptIllegal hh hb hv hp hd), steps_succ 1 hraise, steps_succ 0 hrespond, steps_zero]
  have hword : (Reply.failure .illegalCommand).word = 0x00000050#32 := rfl
  cases hf : s.fault <;> simp [respond, goTo, raiseFault, acceptIllegal, latch, hf, hb, hword]

end Sys2Proof.Machine
end

section
/-! A word on the port does not influence a running command, and the command does not take it (60_exceptions.md
R210). -/

namespace Sys2Proof.Machine

variable {s t : State}

/-- The state with `q` on the command port. -/
def holding (q : Option Word) (s : State) : State := { s with port := q }

theorem raiseFault_holding (q : Option Word) (c : FaultCause) (s : State) :
    raiseFault c (holding q s) = holding q (raiseFault c s) := by
  unfold raiseFault holding
  dsimp only
  split <;> rfl

theorem Effect.apply_holding (e : Effect) (q : Option Word) (s : State) :
    e.apply (holding q s) = holding q (e.apply s) := by
  cases e <;> rfl

theorem pollTurn_holding (q : Option Word) (w : Wait) (u : Upc) (s : State) :
    pollTurn w u (holding q s) = holding q (pollTurn w u s) := by
  have hcfg : (holding q s).cfg = s.cfg := rfl
  have hcnt : (holding q s).pollCnt = s.pollCnt := rfl
  have hanswer : (holding q s).answer = s.answer := rfl
  unfold pollTurn
  simp only [hcfg, hcnt, hanswer]
  split_ifs <;> rfl

/-- A step of a running command is the same whatever word is held. -/
theorem ExecStep.holding {i : Instr} (he : ExecStep i s t) (hb : s.busy = true) (q : Option Word) :
    ExecStep i (holding q s) (holding q t) := by
  cases he with
  | accepted hu =>
    have hstep : ExecStep i (Machine.holding q s) (accept i (Machine.holding q s)) := .accepted hu
    rw [accept_of_busy (s := Machine.holding q s) i hb] at hstep
    rw [accept_of_busy i hb]
    exact hstep
  | raised c hu =>
    have hstep := ExecStep.raised (i := i) (s := Machine.holding q s) c hu
    rw [raiseFault_holding] at hstep
    exact hstep
  | line l e u hu hl =>
    have hstep := ExecStep.line (s := Machine.holding q s) l e u hu hl
    rw [e.apply_holding] at hstep
    exact hstep
  | poll w u hu ha => exact pollTurn_holding q w u s ▸ .poll (s := Machine.holding q s) w u hu ha
  | phaseSet p r hu => exact .phaseSet (s := Machine.holding q s) p r hu
  | responded r hu => exact .responded (s := Machine.holding q s) r hu

/-- A step of an illegal word in progress is the same whatever word is held. -/
theorem illegalTurn_holding (h : illegalTurn s = .next t) (q : Option Word) :
    illegalTurn (holding q s) = .next (holding q t) := by
  obtain ⟨c, hu, rfl⟩ | ⟨r, hu, rfl⟩ := illegalTurn_cases h
  · have hturn : illegalTurn (holding q s) = .next (raiseThenRespond c (holding q s)) := by
      simp [illegalTurn, holding, hu]
    rw [hturn, raiseThenRespond_eq, raiseFault_holding]
    rfl
  · have hturn : illegalTurn (holding q s) = .next (respond r (holding q s)) := by
      simp [illegalTurn, holding, hu]
    rw [hturn]
    rfl

/-- A busy block's step is one of the running command or of an illegal word in progress. -/
theorem blockStep_split_of_busy (h : blockStep s = .next t) (hb : s.busy = true) :
    (∃ i, decode s.cmd = .ok i ∧ ExecStep i s t) ∨ (∃ e, decode s.cmd = .error e ∧ illegalTurn s = .next t) := by
  cases hd : decode s.cmd with
  | ok i => exact .inl ⟨i, rfl, .of_exec ((blockStep_of_busy i hb hd).symm.trans h)⟩
  | error e => exact .inr ⟨e, rfl, (blockStep_of_busy_illegal hb hd).symm.trans h⟩

/-- A busy block's step is the same whatever word is held. -/
theorem blockStep_holding (h : blockStep s = .next t) (hb : s.busy = true) (q : Option Word) :
    blockStep (holding q s) = .next (holding q t) := by
  obtain ⟨i, hd, he⟩ | ⟨e, hd, hturn⟩ := blockStep_split_of_busy h hb
  · rw [blockStep_of_busy (s := holding q s) i hb hd]
    exact (he.holding hb q).exec_eq
  · rw [blockStep_of_busy_illegal (s := holding q s) hb hd]
    exact illegalTurn_holding hturn q

/-- A busy block's step keeps CMD and takes no word off the port. -/
theorem blockStep_keeps_cmd_and_port (h : blockStep s = .next t) (hb : s.busy = true) :
    t.cmd = s.cmd ∧ t.port = s.port := by
  obtain ⟨i, -, he⟩ | ⟨e, -, hturn⟩ := blockStep_split_of_busy h hb
  · by_cases hu : s.upc = .idle
    · obtain rfl : t = accept i s := by simpa [exec_idle i hu] using he.exec_eq.symm
      simp [accept_of_busy i hb]
    · exact he.cmd_frame hu
  · obtain ⟨c, -, rfl⟩ | ⟨r, -, rfl⟩ := illegalTurn_cases hturn <;> simp

/-- Settles O20: a free port takes the host's word; a busy block's step neither takes a held word nor depends on it; and
with a response not taken the block works on no word. -/
theorem wordIsHeldUntilAccepted : Obligations.WordIsHeldUntilAccepted := by
  refine ⟨fun s ms w hh hp => by simp [step, hostTurn, hh, hp], fun s t w hh hp hs => ?_⟩
  rw [step_of_no_host hh] at hs
  refine ⟨fun hb => ?_, fun hb hv => ?_⟩
  · obtain ⟨hcmd, hport⟩ := blockStep_keeps_cmd_and_port hs hb
    refine ⟨hport.trans hp, hcmd, fun w' u hu => ?_⟩
    have hsame : step (holding (some w') s) = .next (holding (some w') t) :=
      (step_of_no_host (s := holding (some w') s) hh).trans (blockStep_holding hs hb _)
    exact Host.Outcome.next.inj (hu.symm.trans hsame)
  · have hnone : fetch s = none := by simp [fetch, hb, hv]
    simpa [blockStep, hnone] using hs.symm

end Sys2Proof.Machine
end

section
/-! The fault record moves at the `raise Fault` step alone, and acceptance alone leads there (60_exceptions.md R202,
R203). -/

namespace Sys2Proof.Machine

variable {s t : State}

/-- The block's step that changes the fault record is a `raise Fault`: of a misuse of the running command, with its body
next, or of an illegal word, with its response next. -/
theorem Inv.raise_of_fault_change (h : Inv s) (hs : blockStep s = .next t)
    (hne : t.fault ≠ s.fault ∨ t.faultCause ≠ s.faultCause) :
    ∃ c u, s.busy = true ∧ s.upc = .raise c ∧ t = goTo u (raiseFault c s) ∧
      ((c = .phaseMisuse ∧ ∃ i, running s = some i ∧ u = bodyEntry s.cfg i) ∨
       (c = .illegalCommand ∧ running s = none ∧ u = .respond (.failure .illegalCommand))) := by
  obtain rfl | ⟨w, i, -, -, -, rfl⟩ | ⟨i, hr, he⟩ | ⟨w, e, -, -, -, rfl⟩ | ⟨e, hb, hd, hu, rfl⟩ |
    ⟨e, r, -, -, -, rfl⟩ := h.blockStep_split hs
  · simp at hne
  · simp at hne
  · by_cases hraise : ∃ c, s.upc = .raise c
    · obtain ⟨c, hu⟩ := hraise
      have hmisuse : c = .phaseMisuse := by simpa [hu, atLine] using h.atLine_of_running hr
      have ht := Host.Outcome.next.inj (he.exec_eq.symm.trans (exec_raise i c hu))
      exact ⟨c, _, (running_eq_some.mp hr).1, hu, ht, .inl ⟨hmisuse, i, hr, rfl⟩⟩
    · have hkeep := he.fault_frame (by simpa using hraise)
      simp [hkeep] at hne
  · simp [acceptIllegal] at hne
  · exact ⟨_, _, hb, hu, rfl, .inr ⟨rfl, running_of_illegal hd, rfl⟩⟩
  · simp at hne

/-- The block's step that leads to a `raise Fault` it was not at accepts a word. -/
theorem blockStep_to_raise {c : FaultCause} (hs : blockStep s = .next t) (ht : t.upc = .raise c) :
    s.upc = .raise c ∨ (s.busy = false ∧ s.port.isSome = true ∧ t.busy = true ∧ t.port = none) := by
  obtain rfl | ⟨w, i, -, -, he⟩ | ⟨w, e, hb, -, hp, -, rfl⟩ | ⟨e, c, -, -, -, rfl⟩ | ⟨e, r, -, -, -, rfl⟩ :=
    blockStep_split hs
  · exact .inl ht
  · by_cases hu : s.upc = .idle
    · obtain rfl : t = accept i s := by simpa [exec_idle i hu] using he.exec_eq.symm
      obtain ⟨hwait, -⟩ | ⟨v, hp, hb, -, haccept⟩ := accept_cases i s
      · exact .inl (hwait ▸ ht)
      · exact .inr (by simp [haccept, hp, hb])
    · exact absurd ht (he.upc_ne_raise hu c)
  · exact .inr (by simp [acceptIllegal, hb, hp])
  · cases ht
  · cases ht

/-- Settles O22: no host move but a reset touches the fault record, and the block's step that does is a `raise Fault`,
to which only the acceptance of a word leads. -/
theorem faultsAreRecordedBeforeTheBody : Obligations.FaultsAreRecordedBeforeTheBody := by
  constructor
  · intro s t h hs hreset hne
    obtain ⟨ms, hblock⟩ | ho := step_split_of_no_reset hs hreset
    · have hclear : s.fault = false := by
        cases hset : s.fault with
        | false => rfl
        | true =>
          have hkeep := blockStep_keeps_fault (s := { s with host := ms }) hblock hset
          simp [hset, hkeep] at hne
      obtain ⟨c, u, hb, hu, rfl, hkind⟩ :=
        Inv.raise_of_fault_change (s := { s with host := ms }) { h with } hblock hne
      refine ⟨hb, by simpa using hb, hclear, by simp, by simp, by simp, by simp, by simp, ?_⟩
      obtain ⟨rfl, i, hr, rfl⟩ | ⟨rfl, hr, rfl⟩ := hkind
      · exact .inl ⟨hu, by simp [hclear], i, hr, h.misuse i _ hr hu, rfl⟩
      · exact .inr ⟨hu, by simp [hclear], hr, rfl⟩
    · rw [ho.1] at hne
      simp at hne
  · intro s t c _ hs ht
    obtain ⟨ms, hblock⟩ | ⟨ms, -, rfl⟩ | ho := step_split hs
    · exact blockStep_to_raise (s := { s with host := ms }) hblock ht
    · cases ht
    · rw [ho.1] at ht
      exact .inl ht

end Sys2Proof.Machine
end

section
/-! Poll loops whose flag does not come: with a finite POLL_LIMIT they end with TIMEOUT, without one they go on for ever
(60_exceptions.md R196, R197). -/

namespace Sys2Proof.Machine

variable {s : State}

/-- At the limit the two steps of TIMEOUT are left: PHASE, and the response. -/
theorem steps_timeout {i : Instr} {w : Wait} {u : Upc} (h : Executes i s) (hu : s.upc = .poll w)
    (ha : afterPoll i s.cfg w = some u) (hl : s.cfg.pollLimit = some s.pollCnt) :
    steps 2 s = .next { s with
      phase := .unsettled, busy := false, upc := .idle, resp := 0x00000060#32, respValid := true } := by
  have hturn : step s = .next (goTo (.respond (.failure .timeout)) (setPhase .unsettled s)) := by
    rw [h.step_eq, exec_poll i w u hu ha]
    simp [pollTurn, hl]
  have hrespond := step_respond (s := goTo (.respond (.failure .timeout)) (setPhase .unsettled s)) i _
    h.quiet h.busy h.decodes rfl
  rw [steps_succ 1 hturn, steps_succ 0 hrespond, steps_zero]
  rfl

/-- Settles O40: as many failing reads as the limit bring POLL_CNT to the limit, where the loop times out; without a
limit the turn is a read. -/
theorem finitePollTimesOut : Obligations.FinitePollTimesOut := by
  intro i w u s hh hb hd hu ha
  refine ⟨fun fails hl hcnt hn hfails => ?_, fun hinf t hs => ?_⟩
  · have hreads : steps fails.length s = .next (afterReads fails fails.length s) := by
      have hfail := steps_poll_fails i w u fails s hh hb hd hu ha hn hfails (by simp [hl, hcnt])
      simpa [hl, hcnt] using hfail
    rw [steps_add _ 2 hreads,
      steps_timeout (s := afterReads fails fails.length s) (i := i) ⟨hh, hb, hd⟩ hu ha hl]
    rfl
  · have hturn := pollTurnReadsStatusAfresh i w u s hu ha (by simp [hinf])
    rw [step_of_busy i hh hb hd, hturn] at hs
    obtain rfl := Host.Outcome.next.inj hs
    simp [hinf]

/-- Settles O42, by induction on the number of steps: the next read fails, and the flag is never read set from the state
after it either. -/
theorem unboundedPollCanHang : Obligations.UnboundedPollCanHang := by
  intro i w u s hh hb hd hu ha hinf hnever k
  induction k generalizing s with
  | zero => exact ⟨s, rfl, hb, hu, rfl, rfl, rfl, rfl, rfl, rfl⟩
  | succ k ih =>
    have hw : waitHolds s.cfg.layout w s.answer = false := nthAnswer_zero s ▸ hnever 0
    have hread := step_poll_fails i w u hh hb hd hu ha (by simp [hinf]) hw
    have hnever' : NeverReads (waitHolds s.cfg.layout w) (countPoll (memRead .status s)) := fun j => by
      have hlater := hnever (j + 1)
      rwa [← nthAnswer_memRead .status] at hlater
    obtain ⟨t, hrun, hbusy, hupc, hresp, hvalid, hphase, hprc, hmem, htrace⟩ :=
      ih (countPoll (memRead .status s)) hh hb hd hu ha hinf hnever'
    refine ⟨t, (steps_succ k hread).trans hrun, hbusy, hupc, hresp, hvalid, hphase, hprc, hmem, ?_⟩
    rw [htrace, countPoll_trace, memRead_trace, List.length_cons]
    omega

end Sys2Proof.Machine
end

section
/-! From a state with the invariant there is always a next state: each place of a command has its step (60_exceptions.md
R190, 30_encoding.md R96). -/

namespace Sys2Proof.Machine

variable {s : State}

theorem exists_opens_of_isStart {i : Instr} (h : isStart i = true) : ∃ a n, Opens i a n := by
  cases i with
  | start a n => exact ⟨a, n, .inl rfl⟩
  | restart a n => exact ⟨a, n, .inr rfl⟩
  | init | write | read | readlast | stop => cases h

theorem exists_eq_write_of_isWrite {i : Instr} (h : isWrite i = true) : ∃ d, i = .write d := by
  cases i with
  | write d => exact ⟨d, rfl⟩
  | init | start | restart | read | readlast | stop => cases h

theorem receives_of_beq {i : Instr} (h : (i == .read || i == .readlast) = true) : Receives i := by
  simpa [Receives] using h

/-- The write of CMD_STOP is a line of START, RESTART and STOP only. -/
theorem carriedReply_cases {c : Config} {i : Instr} {r : Reply} (h : carriedReply c i r = true) :
    (∃ a n, Opens i a n) ∨ i = .stop := by
  cases i with
  | start a n => exact .inl ⟨a, n, .inl rfl⟩
  | restart a n => exact .inl ⟨a, n, .inr rfl⟩
  | stop => exact .inr rfl
  | init | write | read | readlast => cases h

/-- A line of a command has an effect and leads on. -/
theorem exists_lineStep {c : Config} {i : Instr} {l : Line} (h : hasLine c i l = true) (prc : Count) (b : Byte) :
    ∃ e u, LineStep c prc b i l e u := by
  cases l with
  | pinSda => obtain rfl := eq_of_beq h; exact ⟨_, _, .pinSda⟩
  | pinScl => obtain rfl := eq_of_beq h; exact ⟨_, _, .pinScl⟩
  | wrBaud => obtain rfl := eq_of_beq h; exact ⟨_, _, .wrBaud⟩
  | wrCtrla => obtain rfl := eq_of_beq h; exact ⟨_, _, .wrCtrla⟩
  | wrStatus => obtain rfl := eq_of_beq h; exact ⟨_, _, .wrStatus⟩
  | setPrc => obtain ⟨a, n, hi⟩ := exists_opens_of_isStart h; exact ⟨_, _, .setPrc hi⟩
  | addressing => obtain ⟨a, n, hi⟩ := exists_opens_of_isStart h; exact ⟨_, _, .addressing hi⟩
  | wrAddr => obtain ⟨a, n, hi⟩ := exists_opens_of_isStart h; exact ⟨_, _, .wrAddr hi⟩
  | rdS1 =>
    obtain hstart | hwrite := Bool.or_eq_true_iff.mp h
    · obtain ⟨a, n, hi⟩ := exists_opens_of_isStart hstart
      exact ⟨_, _, .startS1 hi⟩
    · obtain ⟨d, rfl⟩ := exists_eq_write_of_isWrite hwrite
      cases hv : c.writeVariant with
      | b => exact ⟨_, _, .writeS1B hv⟩
      | a => exact ⟨_, _, .writeS1A hv⟩
  | rdS2 =>
    simp only [hasLine, Bool.or_eq_true, Bool.and_eq_true, beq_iff_eq] at h
    obtain hstart | ⟨hwrite, hv⟩ := h
    · obtain ⟨a, n, hi⟩ := exists_opens_of_isStart hstart
      exact ⟨_, _, .startS2 hi⟩
    · obtain ⟨d, rfl⟩ := exists_eq_write_of_isWrite hwrite
      exact ⟨_, _, .writeS2B hv⟩
  | wrStop r =>
    obtain ⟨a, n, hi⟩ | rfl := carriedReply_cases h
    · exact ⟨_, _, .startStop hi r⟩
    · exact ⟨_, _, .stop r⟩
  | wrPrime =>
    obtain ⟨d, rfl⟩ := exists_eq_write_of_isWrite h
    cases hv : c.writeVariant with
    | b => exact ⟨_, _, .primeB hv⟩
    | a => exact ⟨_, _, .primeA hv⟩
  | wrData =>
    obtain ⟨d, rfl⟩ := exists_eq_write_of_isWrite h
    cases hv : c.writeVariant with
    | b => exact ⟨_, _, .loadB hv⟩
    | a => exact ⟨_, _, .loadA hv⟩
  | takeCount =>
    obtain rfl | rfl := receives_of_beq h
    · exact ⟨_, _, .decrement⟩
    · exact ⟨_, _, .zero⟩
  | rdData => exact ⟨_, _, .capture (receives_of_beq h)⟩
  | wrAck d =>
    obtain rfl | rfl := receives_of_beq h
    · by_cases hp : prc = 0#16
      · exact ⟨_, _, .nack d (.inl ⟨rfl, hp⟩)⟩
      · exact ⟨_, _, .ack d hp⟩
    · exact ⟨_, _, .nack d (.inr rfl)⟩

/-- At a place of its own a command has a step. -/
theorem exists_execStep {i : Instr} (h : atLine s.cfg i s.upc = true) : ∃ t, ExecStep i s t := by
  cases hu : s.upc with
  | idle => simp [hu, atLine] at h
  | raise c => exact ⟨_, .raised c hu⟩
  | line l =>
    obtain ⟨e, u, hl⟩ := exists_lineStep (by simpa [hu, atLine] using h) s.prc s.answer
    exact ⟨_, .line l e u hu hl⟩
  | poll w =>
    have hpoll : hasPoll s.cfg i w = true := by simpa [hu, atLine] using h
    obtain ⟨u, ha⟩ := Option.isSome_iff_exists.mp (Bool.and_eq_true_iff.mp hpoll).1
    exact ⟨_, .poll w u hu ha⟩
  | setPhase p r => exact ⟨_, .phaseSet p r hu⟩
  | respond r => exact ⟨_, .responded r hu⟩

/-- An illegal word at its fault or its response has a step. -/
theorem exists_illegalTurn
    (h : s.upc = .raise .illegalCommand ∨ s.upc = .respond (.failure .illegalCommand)) :
    ∃ t, illegalTurn s = .next t := by
  obtain hu | hu := h
  · exact ⟨raiseThenRespond .illegalCommand s, by simp [illegalTurn, hu]⟩
  · exact ⟨respond (.failure .illegalCommand) s, by simp [illegalTurn, hu]⟩

/-- The block's step from a state with the invariant answers a next state. -/
theorem Inv.exists_blockStep (h : Inv s) : ∃ t, blockStep s = .next t := by
  obtain ⟨-, he⟩ | ⟨w, i, hf, hd, he⟩ | ⟨w, e, hf, hd, he⟩ := blockStep_cases s <;> rw [he]
  · exact ⟨s, rfl⟩
  · obtain ⟨hb, rfl⟩ | ⟨hb, -, -⟩ := fetch_cases hf
    · obtain ⟨t, ht⟩ := exists_execStep (h.legal i hb hd)
      exact ⟨t, ht.exec_eq⟩
    · exact ⟨_, exec_idle i (h.idle hb)⟩
  · obtain ⟨hb, rfl⟩ | ⟨hb, -, -⟩ := fetch_cases hf
    · simpa [illegalStep, hb] using exists_illegalTurn (h.illegal e hb hd)
    · exact ⟨acceptIllegal w s, by simp [illegalStep, hb]⟩

/-- What the host's part leaves to the block is the same state but for the host's moves. -/
theorem hostTurn_of_yields (h : (hostTurn s).2 = true) : ∃ ms, (hostTurn s).1 = { s with host := ms } := by
  obtain he | ⟨ms, -, he⟩ | ⟨w, ms, -, -, he⟩ | ⟨ms, -, -, he⟩ | ⟨ms, -, he⟩ | ⟨w, ms, -, he⟩ | ⟨ms, -, he⟩ :=
    hostTurn_cases s <;> simp only [he, Bool.false_eq_true] at h ⊢
  · exact ⟨s.host, rfl⟩
  · exact ⟨ms, rfl⟩

/-- Settles O54: a step is the host's move, or the block's step, which from a state with the invariant has an answer. -/
theorem invariantStatesNeverStop : Obligations.InvariantStatesNeverStop := by
  intro s h
  cases hyield : (hostTurn s).2 with
  | false => exact ⟨(hostTurn s).1, by simp [step, hyield]⟩
  | true =>
    obtain ⟨ms, hms⟩ := hostTurn_of_yields hyield
    obtain ⟨t, ht⟩ := Inv.exists_blockStep (s := { s with host := ms }) { h with }
    exact ⟨t, by simpa [step, hyield, hms] using ht⟩

end Sys2Proof.Machine
end

section
/-! The reset: the state it leads to, what it restores from any state, and the wait after it (70_reset_and_hazards.md R220,
R221). -/

namespace Sys2Proof.Machine

variable {s t : State}

/-- Settles O13: `State.reset` writes R220's value into each item, and the codes and BLK_STATUS are computed from them. -/
theorem resetStateValues : Obligations.ResetStateValues :=
  ⟨rfl, rfl, rfl, rfl, rfl, rfl, rfl, rfl, rfl, rfl, rfl, rfl, rfl⟩

/-- Settles O51: after reset no command runs, no fault is recorded, and PHASE is UNINIT, which asks nothing of PRC. -/
theorem resetMeetsTheInvariants : Obligations.ResetMeetsTheInvariants := by
  have hsettled : CountSettled State.reset := { reading := nofun, ended := nofun }
  exact ⟨inv_between rfl rfl rfl (iff_of_true rfl rfl) nofun,
    countInv_of_not_running hsettled (running_of_not_busy rfl)⟩

/-- A reset move takes the whole step. -/
theorem step_reset {ms : List HostMove} (hh : s.host = .reset :: ms) :
    step s = .next (blockReset { s with host := ms }) := by
  simp [step, hostTurn, hh]

/-- With no command, no word on the port and no host move there is nothing to do. -/
theorem step_of_waiting (hh : s.host = []) (hb : s.busy = false) (hp : s.port = none) : step s = .next s := by
  rw [step_of_no_host hh]
  simp [blockStep, fetch, hb, hp]

/-- A state whose step leads to itself stays for any number of steps. -/
theorem steps_of_step_self (h : step s = .next s) (k : Nat) : steps k s = .next s := by
  induction k with
  | zero => exact steps_zero s
  | succ k ih => exact (steps_succ k h).trans ih

/-- A step that clears a standing fault, or changes its cause, is a reset. -/
theorem exists_reset_of_fault_changes (h : step s = .next t) (hf : s.fault = true)
    (hc : t.fault = false ∨ t.faultCause ≠ s.faultCause) : ∃ ms, s.host = .reset :: ms := by
  by_contra hnone
  obtain ⟨hfault, hcause⟩ := faultIsStickyUntilReset.1 s t h (not_exists.mp hnone) hf
  obtain hclear | hdiff := hc
  · simp [hfault] at hclear
  · exact hdiff hcause

/-- Settles O14: the reset move is `blockReset`, after which the machine waits; every other step keeps a fault that
stands. -/
theorem resetMoveRestoresEveryItem : Obligations.ResetMoveRestoresEveryItem := by
  refine ⟨fun s ms hh => ⟨step_reset hh, ?_⟩, fun s t => exists_reset_of_fault_changes⟩
  rintro rfl hp t ht k
  rw [step_reset hh] at ht
  obtain rfl := Host.Outcome.next.inj ht
  exact steps_of_step_self (step_of_waiting (s := blockReset { s with host := [] }) rfl rfl hp) k

end Sys2Proof.Machine
end
